-- ==== Sys2Proof/Word.lean ====
section
/-! DEFINITION. The two word types of the machine (spec 00_scope.md R6, R10): bytes and 16-bit words. -/

namespace Sys2Proof

/-- A byte: 8 bits, bit 0 least significant (R10). -/
abbrev Byte := BitVec 8

/-- A word: 16 bits, the width of an address and of the program counter (R6, R10). -/
abbrev Word := BitVec 16

end Sys2Proof
end

