-- ==== Sys2Proof/Config.lean ====
section
/-! DEFINITION. What an implementation of the machine fixes: the record `Config` of spec 00_scope.md R7
and the one free value of the model. The spec's default values stand in Sys2Proof/Machine/Defaults.lean. -/

namespace Sys2Proof

/-- One colour of the palette, three 8-bit components (60_exceptions.md R291, D39). -/
structure Rgb where
  red   : Byte
  green : Byte
  blue  : Byte
  deriving DecidableEq, Repr

/-- What backs 0xD000–0xDFFF (20_memory.md R66): plain RAM, the peripheral registers, or the glyph ROM. -/
inductive Window where
  | ram
  | peripherals
  | glyphRom
  deriving DecidableEq, Repr

/-- One row of the bank table (R66): is the extended-function ROM visible, is the system ROM visible,
and what the 0xD000 window shows. -/
structure BankView where
  extRom : Bool
  sysRom : Bool
  window : Window
  deriving DecidableEq, Repr

/-- The configuration record of 00_scope.md R7, field for field. It is plain data: `BankDecode` is
its table of eight rows, `PALETTE` its table of sixteen colours. -/
structure Config where
  /-- `RESET_VECTOR`, D3. -/
  resetVector : Word
  /-- `IRQ_VECTOR`, D3; BRK goes through it too. -/
  irqVector : Word
  /-- `FORCE_BREAK_VECTOR`, D4 (OPEN). -/
  forceBreakVector : Word
  /-- `FORCE_BREAK_B`, D4 (OPEN): bit 4 of the status byte ForceBreak pushes. -/
  forceBreakB : Bool
  /-- `STACK_BASE`, D2. -/
  stackBase : Word
  /-- `SP_RESET`, D5. -/
  spReset : Byte
  /-- `UNDEF_CYCLES`, D7. -/
  undefCycles : Nat
  /-- `INT_ENTRY_CYCLES`, D14. -/
  intEntryCycles : Nat
  /-- `JMP_IND_PAGE_WRAP`, D10. -/
  jmpIndPageWrap : Bool
  /-- `CYCLES_PER_FRAME`, D28 (OPEN). -/
  cyclesPerFrame : Nat
  /-- `CYCLES_PER_LINE`, D28 (OPEN). -/
  cyclesPerLine : Nat
  /-- `LINES_PER_FRAME`, D28 (OPEN). -/
  linesPerFrame : Nat
  /-- `VALVE`, D30. -/
  valve : Nat
  /-- `RAM_DEFAULTS`, D31: the bytes Reset writes into RAM, in order. -/
  ramDefaults : List (Word × Byte)
  /-- `KEY_COUNT_ADDR`, D23. -/
  keyCountAddr : Word
  /-- `KEY_BUF_ADDR`, D23. -/
  keyBufAddr : Word
  /-- `SCREEN_BASE`, D24. -/
  screenBase : Word
  /-- `COLOR_BASE`, D24. -/
  colorBase : Word
  /-- `BORDER_REG`, D24. -/
  borderReg : Word
  /-- `BACKGROUND_REG`, D24. -/
  backgroundReg : Word
  /-- `RASTER_REG`, D19. -/
  rasterReg : Word
  /-- `IRQ_STATUS_REG`, D20. -/
  irqStatusReg : Word
  /-- `DISPLAY_W`, D25 (OPEN). -/
  displayW : Nat
  /-- `DISPLAY_H`, D25 (OPEN). -/
  displayH : Nat
  /-- `INNER_X0`, D25 (OPEN). -/
  innerX0 : Nat
  /-- `INNER_Y0`, D25 (OPEN). -/
  innerY0 : Nat
  /-- `PALETTE`, D26 (OPEN). -/
  palette : Vector Rgb 16
  /-- `BankDecode`, D16: row k is the view for bank bits k. -/
  bankDecode : Vector BankView 8
  deriving DecidableEq, Repr

/-- What a host injects for a key that is a character whose uppercase form is not one code point below 256
(60_exceptions.md R287 gives the code point, R285 a byte): a free value, whatever byte or none (log entry 9).
It is applied to the character's code point. -/
opaque Config.openKeyCode : Nat → Option Byte

end Sys2Proof
end

