-- ==== Sys2Proof/Machine/Defaults.lean ====
section
/-! DEFINITION. The values spec 00_scope.md R7 gives the configuration's fields by default. -/

namespace Sys2Proof

/-- The bank table of 20_memory.md R66, rows 0 to 7 (bit 0 LORAM, bit 1 HIRAM, bit 2 CHAREN). -/
def Config.defaultBankDecode : Vector BankView 8 :=
  #v[⟨false, false, .ram⟩, ⟨false, false, .glyphRom⟩, ⟨false, true, .glyphRom⟩, ⟨true, true, .glyphRom⟩,
     ⟨false, false, .ram⟩, ⟨false, false, .peripherals⟩, ⟨false, true, .peripherals⟩, ⟨true, true, .peripherals⟩]

/-- The palette of 60_exceptions.md R298. -/
def Config.defaultPalette : Vector Rgb 16 :=
  #v[⟨0x00, 0x00, 0x00⟩, ⟨0xFF, 0xFF, 0xFF⟩, ⟨0x68, 0x37, 0x2B⟩, ⟨0x70, 0xA4, 0xB2⟩,
     ⟨0x6F, 0x3D, 0x86⟩, ⟨0x58, 0x8D, 0x43⟩, ⟨0x35, 0x28, 0x79⟩, ⟨0xB8, 0xC7, 0x6F⟩,
     ⟨0x6F, 0x4F, 0x25⟩, ⟨0x43, 0x39, 0x00⟩, ⟨0x9A, 0x67, 0x59⟩, ⟨0x44, 0x44, 0x44⟩,
     ⟨0x6C, 0x6C, 0x6C⟩, ⟨0x9A, 0xD2, 0x84⟩, ⟨0x6C, 0x5E, 0xB5⟩, ⟨0x95, 0x95, 0x95⟩]

/-- The default of every field of R7. -/
def Config.default : Config where
  resetVector := 0xFFFC
  irqVector := 0xFFFE
  forceBreakVector := 0xFFFE
  forceBreakB := false
  stackBase := 0x0100
  spReset := 0x00
  undefCycles := 2
  intEntryCycles := 7
  jmpIndPageWrap := true
  cyclesPerFrame := 19656
  cyclesPerLine := 63
  linesPerFrame := 312
  valve := 10000
  ramDefaults := [(0x0000, 0x2F), (0x0001, 0x37)]
  keyCountAddr := 0x00C6
  keyBufAddr := 0x0277
  screenBase := 0x0400
  colorBase := 0xD800
  borderReg := 0xD020
  backgroundReg := 0xD021
  rasterReg := 0xD012
  irqStatusReg := 0xD019
  displayW := 384
  displayH := 272
  innerX0 := 32
  innerY0 := 36
  palette := Config.defaultPalette
  bankDecode := Config.defaultBankDecode

end Sys2Proof
end

