-- ==== Sys2Proof/Machine/State.lean ====
section
/-! DEFINITION. The machine's state (spec 10_state.md), its reset value (R47), and the reasons a step or
an event can stop. -/

namespace Sys2Proof.Machine

/-- A byte array as the cells that differ from `Memory.unlisted`, by rising address: RAM, and the ROM
images. `Memory.read` and `Memory.write` (Ops.lean) are its only operations. -/
abbrev Memory := List Host.Cell

/-- The three ROM images (00_scope.md R8, 20_memory.md R61), indexed from 0. No step and no event but
Construct changes them. -/
structure Roms where
  /-- `ROM_EXT`, the extended-function ROM, 8192 bytes. -/
  ext : Memory
  /-- `ROM_SYS`, the system ROM, 8192 bytes. -/
  sys : Memory
  /-- `ROM_GLYPH`, the glyph ROM, 4096 bytes. -/
  glyph : Memory
  deriving DecidableEq, Repr

/-- The state: registers (R20), RAM (R44), the counters (R40–R42), and, fixed for the machine's life,
the ROM images and the configuration (00_scope.md R7, R8; log entries 1 and 3). -/
structure State where
  /-- Accumulator. -/
  a : Byte
  /-- Index register X. -/
  x : Byte
  /-- Index register Y. -/
  y : Byte
  /-- Stack pointer, an offset into the stack page. -/
  sp : Byte
  /-- Status flags, bits 0 to 7: C Z I D B U V N (R26). -/
  p : Byte
  /-- Program counter. -/
  pc : Word
  /-- The 65536-byte RAM array, peripheral registers and the bank-select register among it. -/
  mem : Memory
  /-- Elapsed cycles (R40). -/
  cycles : Nat
  /-- Cycle budget granted minus spent (R41). -/
  balance : Int
  /-- Scheduler ticks (R42). -/
  ticks : Nat
  /-- The ROM images. -/
  roms : Roms
  /-- The configuration. -/
  cfg : Config
  deriving DecidableEq, Repr

/-- Faults: none. The spec gives the machine no fault path (60_exceptions.md R260; 93: "Nothing in this
machine is treated as fault or stuck"), so the type is empty and no step can answer one. Safe. -/
inductive Fault where
  deriving DecidableEq, Repr

/-- Why a step or an event has no result. -/
inductive Refusal where
  /-- An instruction whose meaning is not written: raised by `exec`'s arm alone, and by no arm of this
  model. Safe. -/
  | notModelled (mnemonic : String)
  /-- Construct was given a ROM image of the wrong length: raised by `construct` alone
  (70_reset_and_hazards.md R320, D45). Safe. -/
  | romImageLength
  deriving DecidableEq, Repr

/-- What a step answers. -/
abbrev Result := Host.Outcome State Fault Refusal

/-- `A <- v`. -/
def State.withA (s : State) (v : Byte) : State := { s with a := v }

/-- `X <- v`. -/
def State.withX (s : State) (v : Byte) : State := { s with x := v }

/-- `Y <- v`. -/
def State.withY (s : State) (v : Byte) : State := { s with y := v }

/-- `SP <- v`. -/
def State.withSp (s : State) (v : Byte) : State := { s with sp := v }

/-- `P <- v`. -/
def State.withP (s : State) (v : Byte) : State := { s with p := v }

/-- `PC <- v`. -/
def State.withPc (s : State) (v : Word) : State := { s with pc := v }

/-- Replaces the RAM array. -/
def State.withMem (s : State) (m : Memory) : State := { s with mem := m }

/-- `cycles <- n`. -/
def State.withCycles (s : State) (n : Nat) : State := { s with cycles := n }

/-- `balance <- b`. -/
def State.withBalance (s : State) (b : Int) : State := { s with balance := b }

/-- `ticks <- n`. -/
def State.withTicks (s : State) (n : Nat) : State := { s with ticks := n }

/-- Replaces the ROM images: what the host's placing of a test instruction in ROM needs, and no rule. -/
def State.withRoms (s : State) (r : Roms) : State := { s with roms := r }

/-- The machine right after Construct (R47), with all three ROM images and all unspecified RAM bytes
zero (log entries 1 and 2: DESIGN CHOICE, the vector machine of 95_test_vectors.md) and the default
configuration. The reset vector is read from the system ROM, so PC is 0. -/
def State.reset : State where
  a := 0x00
  x := 0x00
  y := 0x00
  sp := 0x00
  p := 0x20
  pc := 0x0000
  mem := [(0x0000, 0x2F), (0x0001, 0x37)]
  cycles := 0
  balance := 0
  ticks := 0
  roms := ⟨[], [], []⟩
  cfg := Config.default

end Sys2Proof.Machine
end

