-- ==== Sys2Proof/Syntax.lean ====
section
/-! DEFINITION. The instructions (spec 30_encoding.md R110–R132): the addressing modes, the operand
forms that carry an instruction's operand bytes, and `Instr`, one constructor per mnemonic of
spec/opcode_table.json. A row of the table is a constructor together with an operand form: the eight
LDA rows are `lda` at its eight forms, the 105 UND rows are `und` at its 105 opcode bytes. -/

namespace Sys2Proof

/-- The addressing modes of R112. -/
inductive Mode where
  | imp | acc | imm | zp | zpx | zpy | izx | izy | rel | abs | abx | aby | ind | und
  deriving DecidableEq, Repr

/-- An operand in memory, with its operand byte or word as encoded (R117–R122, R124, R125). -/
inductive MemOperand where
  | zp  (addr : Byte)
  | zpx (addr : Byte)
  | zpy (addr : Byte)
  | izx (addr : Byte)
  | izy (addr : Byte)
  | abs (addr : Word)
  | abx (addr : Word)
  | aby (addr : Word)
  deriving DecidableEq, Repr

/-- The operand of an instruction that reads a value: immediate (R116) or in memory. -/
inductive ReadOperand where
  | imm (value : Byte)
  | mem (operand : MemOperand)
  deriving DecidableEq, Repr

/-- The operand of a shift or rotate: the accumulator (R115) or memory. -/
inductive ShiftOperand where
  | acc
  | mem (operand : MemOperand)
  deriving DecidableEq, Repr

/-- The operand of JMP: absolute (R120) or absolute indirect (R123). -/
inductive JumpOperand where
  | abs (target : Word)
  | ind (pointer : Word)
  deriving DecidableEq, Repr

/-- The machine's instructions, in the order of the spec's files 40 to 44. -/
inductive Instr where
  -- loads, stores, transfers (40_load_store_transfer.md)
  | lda (o : ReadOperand)
  | ldx (o : ReadOperand)
  | ldy (o : ReadOperand)
  | sta (m : MemOperand)
  | stx (m : MemOperand)
  | sty (m : MemOperand)
  | tax
  | tay
  | txa
  | tya
  | tsx
  | txs
  -- arithmetic, logic, compare, increment, decrement (41_arithmetic_logic.md)
  | adc (o : ReadOperand)
  | sbc (o : ReadOperand)
  | and (o : ReadOperand)
  | ora (o : ReadOperand)
  | eor (o : ReadOperand)
  | bit (m : MemOperand)
  | cmp (o : ReadOperand)
  | cpx (o : ReadOperand)
  | cpy (o : ReadOperand)
  | inc (m : MemOperand)
  | dec (m : MemOperand)
  | inx
  | iny
  | dex
  | dey
  -- shifts and rotates (42_shift_rotate.md)
  | asl (o : ShiftOperand)
  | lsr (o : ShiftOperand)
  | rol (o : ShiftOperand)
  | ror (o : ShiftOperand)
  -- branches, jumps, call and return (43_control_flow.md)
  | bcc (d : Byte)
  | bcs (d : Byte)
  | beq (d : Byte)
  | bmi (d : Byte)
  | bne (d : Byte)
  | bpl (d : Byte)
  | bvc (d : Byte)
  | bvs (d : Byte)
  | jmp (o : JumpOperand)
  | jsr (target : Word)
  | rts
  -- stack, flags, system (44_stack_flags_system.md)
  | pha
  | php
  | pla
  | plp
  | clc
  | sec
  | cli
  | sei
  | cld
  | sed
  | clv
  | nop
  | brk
  | rti
  /-- An undefined opcode, carrying its byte (R132, R234). -/
  | und (opcode : Byte)
  deriving DecidableEq, Repr

end Sys2Proof
end

