-- ==== Sys2Proof/Machine/Cycles.lean ====
section
/-! DEFINITION. Base cycle costs (spec 30_encoding.md R113, R130). The table's numbers depend only on how
an instruction uses its operand (read, store, read-modify-write) and on the operand's mode;
Sys2Proof/Decode.lean's rows and the table of R130 agree with them opcode by opcode
(`Obligations.OpcodeCyclesAreTheTable`). -/

namespace Sys2Proof.Machine

/-- Base cycles of an instruction that reads a memory operand. -/
def memReadCycles : MemOperand → Nat
  | .zp _ => 3
  | .zpx _ => 4
  | .zpy _ => 4
  | .izx _ => 6
  | .izy _ => 5
  | .abs _ => 4
  | .abx _ => 4
  | .aby _ => 4

/-- Base cycles of an instruction that reads an operand. -/
def readCycles : ReadOperand → Nat
  | .imm _ => 2
  | .mem m => memReadCycles m

/-- Base cycles of a store: one more than a read on the modes abx, aby and izy (40 R153). -/
def storeCycles : MemOperand → Nat
  | .zp _ => 3
  | .zpx _ => 4
  | .zpy _ => 4
  | .izx _ => 6
  | .izy _ => 6
  | .abs _ => 4
  | .abx _ => 5
  | .aby _ => 5

/-- Base cycles of INC, DEC and the shifts on memory. The modes zpy, aby, izx and izy have no such
instruction (ill-formed terms, which no decoding yields); their numbers are of no encoding. -/
def modifyCycles : MemOperand → Nat
  | .zp _ => 5
  | .zpx _ => 6
  | .zpy _ => 6
  | .izx _ => 8
  | .izy _ => 8
  | .abs _ => 6
  | .abx _ => 7
  | .aby _ => 7

/-- Base cycles of a shift or rotate (42 R194). -/
def shiftCycles : ShiftOperand → Nat
  | .acc => 2
  | .mem m => modifyCycles m

/-- Base cycles of JMP (43 R209). -/
def jumpCycles : JumpOperand → Nat
  | .abs _ => 3
  | .ind _ => 5

/-- The base cycle cost of an instruction (R113). -/
def baseCycles (cfg : Config) : Instr → Nat
  | .lda o => readCycles o
  | .ldx o => readCycles o
  | .ldy o => readCycles o
  | .sta m => storeCycles m
  | .stx m => storeCycles m
  | .sty m => storeCycles m
  | .tax => 2
  | .tay => 2
  | .txa => 2
  | .tya => 2
  | .tsx => 2
  | .txs => 2
  | .adc o => readCycles o
  | .sbc o => readCycles o
  | .and o => readCycles o
  | .ora o => readCycles o
  | .eor o => readCycles o
  | .bit m => memReadCycles m
  | .cmp o => readCycles o
  | .cpx o => readCycles o
  | .cpy o => readCycles o
  | .inc m => modifyCycles m
  | .dec m => modifyCycles m
  | .inx => 2
  | .iny => 2
  | .dex => 2
  | .dey => 2
  | .asl o => shiftCycles o
  | .lsr o => shiftCycles o
  | .rol o => shiftCycles o
  | .ror o => shiftCycles o
  | .bcc _ => 2
  | .bcs _ => 2
  | .beq _ => 2
  | .bmi _ => 2
  | .bne _ => 2
  | .bpl _ => 2
  | .bvc _ => 2
  | .bvs _ => 2
  | .jmp o => jumpCycles o
  | .jsr _ => 6
  | .rts => 6
  | .pha => 3
  | .php => 3
  | .pla => 4
  | .plp => 4
  | .clc => 2
  | .sec => 2
  | .cli => 2
  | .sei => 2
  | .cld => 2
  | .sed => 2
  | .clv => 2
  | .nop => 2
  | .brk => 7
  | .rti => 6
  | .und _ => cfg.undefCycles

end Sys2Proof.Machine
end

