-- ==== Sys2Proof/Machine/Bits.lean ====
section
/-! DEFINITION. Bytes of words, zero and sign extension (spec 00_scope.md R10). -/

namespace Sys2Proof.Machine

/-- `lo(w) = w[7:0]` (R10). -/
def lo (w : Word) : Byte := w.extractLsb' 0 8

/-- `hi(w) = w[15:8]` (R10). -/
def hi (w : Word) : Byte := w.extractLsb' 8 8

/-- `{h, l}`, the word `h*256 + l` (R10). -/
def join (h l : Byte) : Word := h ++ l

/-- `zext_16(b)` (R10). -/
def zext (b : Byte) : Word := b.setWidth 16

/-- `sext_16(b)` (R10). -/
def sext (b : Byte) : Word := b.signExtend 16

/-- Byte `k` of a number, byte 0 the least significant. -/
def byteOf (n k : Nat) : Byte := BitVec.ofNat 8 (n / 256 ^ k)

end Sys2Proof.Machine
end

