-- ==== Sys2Proof/WellFormed.lean ====
section
/-! DEFINITION. Which instructions have an encoding: the addressing modes each mnemonic has (spec
30_encoding.md R131) and the bytes that are undefined opcodes (R132). -/

namespace Sys2Proof

/-- The addressing mode of a memory operand. -/
def MemOperand.mode : MemOperand → Mode
  | .zp _ => .zp
  | .zpx _ => .zpx
  | .zpy _ => .zpy
  | .izx _ => .izx
  | .izy _ => .izy
  | .abs _ => .abs
  | .abx _ => .abx
  | .aby _ => .aby

/-- The addressing mode of a read operand. -/
def ReadOperand.mode : ReadOperand → Mode
  | .imm _ => .imm
  | .mem m => m.mode

/-- The addressing mode of a shift operand. -/
def ShiftOperand.mode : ShiftOperand → Mode
  | .acc => .acc
  | .mem m => m.mode

/-- The addressing mode of a jump operand. -/
def JumpOperand.mode : JumpOperand → Mode
  | .abs _ => .abs
  | .ind _ => .ind

/-- The addressing mode of an instruction. -/
def Instr.mode : Instr → Mode
  | .lda o => o.mode
  | .ldx o => o.mode
  | .ldy o => o.mode
  | .sta m => m.mode
  | .stx m => m.mode
  | .sty m => m.mode
  | .tax => .imp
  | .tay => .imp
  | .txa => .imp
  | .tya => .imp
  | .tsx => .imp
  | .txs => .imp
  | .adc o => o.mode
  | .sbc o => o.mode
  | .and o => o.mode
  | .ora o => o.mode
  | .eor o => o.mode
  | .bit m => m.mode
  | .cmp o => o.mode
  | .cpx o => o.mode
  | .cpy o => o.mode
  | .inc m => m.mode
  | .dec m => m.mode
  | .inx => .imp
  | .iny => .imp
  | .dex => .imp
  | .dey => .imp
  | .asl o => o.mode
  | .lsr o => o.mode
  | .rol o => o.mode
  | .ror o => o.mode
  | .bcc _ => .rel
  | .bcs _ => .rel
  | .beq _ => .rel
  | .bmi _ => .rel
  | .bne _ => .rel
  | .bpl _ => .rel
  | .bvc _ => .rel
  | .bvs _ => .rel
  | .jmp o => o.mode
  | .jsr _ => .abs
  | .rts => .imp
  | .pha => .imp
  | .php => .imp
  | .pla => .imp
  | .plp => .imp
  | .clc => .imp
  | .sec => .imp
  | .cli => .imp
  | .sei => .imp
  | .cld => .imp
  | .sed => .imp
  | .clv => .imp
  | .nop => .imp
  | .brk => .imp
  | .rti => .imp
  | .und _ => .und

/-- The eight modes of the accumulator's read instructions (R131: ADC, AND, CMP, EOR, LDA, ORA, SBC). -/
def Mode.accumulatorReads : List Mode := [.imm, .zp, .zpx, .abs, .abx, .aby, .izx, .izy]

/-- The four memory modes of the read-modify-write instructions (R131: ASL, LSR, ROL, ROR, INC, DEC). -/
def Mode.readModifyWrites : List Mode := [.zp, .zpx, .abs, .abx]

/-- The modes R131 gives an instruction's mnemonic. -/
def Instr.allowedModes : Instr → List Mode
  | .lda _ => Mode.accumulatorReads
  | .ldx _ => [.imm, .zp, .zpy, .abs, .aby]
  | .ldy _ => [.imm, .zp, .zpx, .abs, .abx]
  | .sta _ => [.zp, .zpx, .abs, .abx, .aby, .izx, .izy]
  | .stx _ => [.zp, .zpy, .abs]
  | .sty _ => [.zp, .zpx, .abs]
  | .tax => [.imp]
  | .tay => [.imp]
  | .txa => [.imp]
  | .tya => [.imp]
  | .tsx => [.imp]
  | .txs => [.imp]
  | .adc _ => Mode.accumulatorReads
  | .sbc _ => Mode.accumulatorReads
  | .and _ => Mode.accumulatorReads
  | .ora _ => Mode.accumulatorReads
  | .eor _ => Mode.accumulatorReads
  | .bit _ => [.zp, .abs]
  | .cmp _ => Mode.accumulatorReads
  | .cpx _ => [.imm, .zp, .abs]
  | .cpy _ => [.imm, .zp, .abs]
  | .inc _ => Mode.readModifyWrites
  | .dec _ => Mode.readModifyWrites
  | .inx => [.imp]
  | .iny => [.imp]
  | .dex => [.imp]
  | .dey => [.imp]
  | .asl _ => .acc :: Mode.readModifyWrites
  | .lsr _ => .acc :: Mode.readModifyWrites
  | .rol _ => .acc :: Mode.readModifyWrites
  | .ror _ => .acc :: Mode.readModifyWrites
  | .bcc _ => [.rel]
  | .bcs _ => [.rel]
  | .beq _ => [.rel]
  | .bmi _ => [.rel]
  | .bne _ => [.rel]
  | .bpl _ => [.rel]
  | .bvc _ => [.rel]
  | .bvs _ => [.rel]
  | .jmp _ => [.abs, .ind]
  | .jsr _ => [.abs]
  | .rts => [.imp]
  | .pha => [.imp]
  | .php => [.imp]
  | .pla => [.imp]
  | .plp => [.imp]
  | .clc => [.imp]
  | .sec => [.imp]
  | .cli => [.imp]
  | .sei => [.imp]
  | .cld => [.imp]
  | .sed => [.imp]
  | .clv => [.imp]
  | .nop => [.imp]
  | .brk => [.imp]
  | .rti => [.imp]
  | .und _ => [.und]

/-- The 105 undefined opcode bytes, as R132 lists them. -/
def undefinedOpcodes : List Byte :=
  [0x02, 0x03, 0x04, 0x07, 0x0B, 0x0C, 0x0F, 0x12, 0x13, 0x14, 0x17, 0x1A, 0x1B, 0x1C, 0x1F,
   0x22, 0x23, 0x27, 0x2B, 0x2F, 0x32, 0x33, 0x34, 0x37, 0x3A, 0x3B, 0x3C, 0x3F] ++
  [0x42, 0x43, 0x44, 0x47, 0x4B, 0x4F, 0x52, 0x53, 0x54, 0x57, 0x5A, 0x5B, 0x5C, 0x5F,
   0x62, 0x63, 0x64, 0x67, 0x6B, 0x6F, 0x72, 0x73, 0x74, 0x77, 0x7A, 0x7B, 0x7C, 0x7F] ++
  [0x80, 0x82, 0x83, 0x87, 0x89, 0x8B, 0x8F, 0x92, 0x93, 0x97, 0x9B, 0x9C, 0x9E, 0x9F,
   0xA3, 0xA7, 0xAB, 0xAF, 0xB2, 0xB3, 0xB7, 0xBB, 0xBF, 0xC2, 0xC3, 0xC7, 0xCB, 0xCF] ++
  [0xD2, 0xD3, 0xD4, 0xD7, 0xDA, 0xDB, 0xDC, 0xDF, 0xE2, 0xE3, 0xE7, 0xEB, 0xEF,
   0xF2, 0xF3, 0xF4, 0xF7, 0xFA, 0xFB, 0xFC, 0xFF]

/-- The check on the byte an `und` carries: it is one of the 105. Other instructions carry no opcode. -/
def Instr.opcodeOk : Instr → Bool
  | .und op => undefinedOpcodes.contains op
  | _ => true

/-- The instruction has an encoding: its operand form is one its mnemonic has, and an `und` carries an
undefined opcode. -/
def Instr.wf (i : Instr) : Bool := i.allowedModes.contains i.mode && i.opcodeOk

end Sys2Proof
end

