-- ==== Sys2Proof/Decode.lean ====
section
/-! DEFINITION. Decoding and encoding. The decoder is the 256-entry map of spec 30_encoding.md R130, one
function per row of the map (high nibble), and is total: a byte without an entry is an undefined opcode
(R132). The encoder is written from the list by mnemonic, R131. -/

namespace Sys2Proof

open Machine (join lo hi byteOf)

/-- The length in bytes of an instruction of this mode, opcode included (R112). -/
def Mode.length : Mode → Nat
  | .imp | .acc | .und => 1
  | .imm | .zp | .zpx | .zpy | .izx | .izy | .rel => 2
  | .abs | .abx | .aby | .ind => 3

/-- The length in bytes of an instruction (R110, R112). -/
def Instr.length (i : Instr) : Nat := i.mode.length

/-- Row 0x of R130. -/
def decodeRow0 (lo : BitVec 4) (b : Byte) (w : Word) : Option Instr :=
  match lo with
  | 0x0#4 => some (.brk)
  | 0x1#4 => some (.ora (.mem (.izx b)))
  | 0x5#4 => some (.ora (.mem (.zp b)))
  | 0x6#4 => some (.asl (.mem (.zp b)))
  | 0x8#4 => some (.php)
  | 0x9#4 => some (.ora (.imm b))
  | 0xA#4 => some (.asl .acc)
  | 0xD#4 => some (.ora (.mem (.abs w)))
  | 0xE#4 => some (.asl (.mem (.abs w)))
  | _ => none

/-- Row 1x of R130. -/
def decodeRow1 (lo : BitVec 4) (b : Byte) (w : Word) : Option Instr :=
  match lo with
  | 0x0#4 => some (.bpl b)
  | 0x1#4 => some (.ora (.mem (.izy b)))
  | 0x5#4 => some (.ora (.mem (.zpx b)))
  | 0x6#4 => some (.asl (.mem (.zpx b)))
  | 0x8#4 => some (.clc)
  | 0x9#4 => some (.ora (.mem (.aby w)))
  | 0xD#4 => some (.ora (.mem (.abx w)))
  | 0xE#4 => some (.asl (.mem (.abx w)))
  | _ => none

/-- Row 2x of R130. -/
def decodeRow2 (lo : BitVec 4) (b : Byte) (w : Word) : Option Instr :=
  match lo with
  | 0x0#4 => some (.jsr w)
  | 0x1#4 => some (.and (.mem (.izx b)))
  | 0x4#4 => some (.bit (.zp b))
  | 0x5#4 => some (.and (.mem (.zp b)))
  | 0x6#4 => some (.rol (.mem (.zp b)))
  | 0x8#4 => some (.plp)
  | 0x9#4 => some (.and (.imm b))
  | 0xA#4 => some (.rol .acc)
  | 0xC#4 => some (.bit (.abs w))
  | 0xD#4 => some (.and (.mem (.abs w)))
  | 0xE#4 => some (.rol (.mem (.abs w)))
  | _ => none

/-- Row 3x of R130. -/
def decodeRow3 (lo : BitVec 4) (b : Byte) (w : Word) : Option Instr :=
  match lo with
  | 0x0#4 => some (.bmi b)
  | 0x1#4 => some (.and (.mem (.izy b)))
  | 0x5#4 => some (.and (.mem (.zpx b)))
  | 0x6#4 => some (.rol (.mem (.zpx b)))
  | 0x8#4 => some (.sec)
  | 0x9#4 => some (.and (.mem (.aby w)))
  | 0xD#4 => some (.and (.mem (.abx w)))
  | 0xE#4 => some (.rol (.mem (.abx w)))
  | _ => none

/-- Row 4x of R130. -/
def decodeRow4 (lo : BitVec 4) (b : Byte) (w : Word) : Option Instr :=
  match lo with
  | 0x0#4 => some (.rti)
  | 0x1#4 => some (.eor (.mem (.izx b)))
  | 0x5#4 => some (.eor (.mem (.zp b)))
  | 0x6#4 => some (.lsr (.mem (.zp b)))
  | 0x8#4 => some (.pha)
  | 0x9#4 => some (.eor (.imm b))
  | 0xA#4 => some (.lsr .acc)
  | 0xC#4 => some (.jmp (.abs w))
  | 0xD#4 => some (.eor (.mem (.abs w)))
  | 0xE#4 => some (.lsr (.mem (.abs w)))
  | _ => none

/-- Row 5x of R130. -/
def decodeRow5 (lo : BitVec 4) (b : Byte) (w : Word) : Option Instr :=
  match lo with
  | 0x0#4 => some (.bvc b)
  | 0x1#4 => some (.eor (.mem (.izy b)))
  | 0x5#4 => some (.eor (.mem (.zpx b)))
  | 0x6#4 => some (.lsr (.mem (.zpx b)))
  | 0x8#4 => some (.cli)
  | 0x9#4 => some (.eor (.mem (.aby w)))
  | 0xD#4 => some (.eor (.mem (.abx w)))
  | 0xE#4 => some (.lsr (.mem (.abx w)))
  | _ => none

/-- Row 6x of R130. -/
def decodeRow6 (lo : BitVec 4) (b : Byte) (w : Word) : Option Instr :=
  match lo with
  | 0x0#4 => some (.rts)
  | 0x1#4 => some (.adc (.mem (.izx b)))
  | 0x5#4 => some (.adc (.mem (.zp b)))
  | 0x6#4 => some (.ror (.mem (.zp b)))
  | 0x8#4 => some (.pla)
  | 0x9#4 => some (.adc (.imm b))
  | 0xA#4 => some (.ror .acc)
  | 0xC#4 => some (.jmp (.ind w))
  | 0xD#4 => some (.adc (.mem (.abs w)))
  | 0xE#4 => some (.ror (.mem (.abs w)))
  | _ => none

/-- Row 7x of R130. -/
def decodeRow7 (lo : BitVec 4) (b : Byte) (w : Word) : Option Instr :=
  match lo with
  | 0x0#4 => some (.bvs b)
  | 0x1#4 => some (.adc (.mem (.izy b)))
  | 0x5#4 => some (.adc (.mem (.zpx b)))
  | 0x6#4 => some (.ror (.mem (.zpx b)))
  | 0x8#4 => some (.sei)
  | 0x9#4 => some (.adc (.mem (.aby w)))
  | 0xD#4 => some (.adc (.mem (.abx w)))
  | 0xE#4 => some (.ror (.mem (.abx w)))
  | _ => none

/-- Row 8x of R130. -/
def decodeRow8 (lo : BitVec 4) (b : Byte) (w : Word) : Option Instr :=
  match lo with
  | 0x1#4 => some (.sta (.izx b))
  | 0x4#4 => some (.sty (.zp b))
  | 0x5#4 => some (.sta (.zp b))
  | 0x6#4 => some (.stx (.zp b))
  | 0x8#4 => some (.dey)
  | 0xA#4 => some (.txa)
  | 0xC#4 => some (.sty (.abs w))
  | 0xD#4 => some (.sta (.abs w))
  | 0xE#4 => some (.stx (.abs w))
  | _ => none

/-- Row 9x of R130. -/
def decodeRow9 (lo : BitVec 4) (b : Byte) (w : Word) : Option Instr :=
  match lo with
  | 0x0#4 => some (.bcc b)
  | 0x1#4 => some (.sta (.izy b))
  | 0x4#4 => some (.sty (.zpx b))
  | 0x5#4 => some (.sta (.zpx b))
  | 0x6#4 => some (.stx (.zpy b))
  | 0x8#4 => some (.tya)
  | 0x9#4 => some (.sta (.aby w))
  | 0xA#4 => some (.txs)
  | 0xD#4 => some (.sta (.abx w))
  | _ => none

/-- Row Ax of R130. -/
def decodeRowA (lo : BitVec 4) (b : Byte) (w : Word) : Option Instr :=
  match lo with
  | 0x0#4 => some (.ldy (.imm b))
  | 0x1#4 => some (.lda (.mem (.izx b)))
  | 0x2#4 => some (.ldx (.imm b))
  | 0x4#4 => some (.ldy (.mem (.zp b)))
  | 0x5#4 => some (.lda (.mem (.zp b)))
  | 0x6#4 => some (.ldx (.mem (.zp b)))
  | 0x8#4 => some (.tay)
  | 0x9#4 => some (.lda (.imm b))
  | 0xA#4 => some (.tax)
  | 0xC#4 => some (.ldy (.mem (.abs w)))
  | 0xD#4 => some (.lda (.mem (.abs w)))
  | 0xE#4 => some (.ldx (.mem (.abs w)))
  | _ => none

/-- Row Bx of R130. -/
def decodeRowB (lo : BitVec 4) (b : Byte) (w : Word) : Option Instr :=
  match lo with
  | 0x0#4 => some (.bcs b)
  | 0x1#4 => some (.lda (.mem (.izy b)))
  | 0x4#4 => some (.ldy (.mem (.zpx b)))
  | 0x5#4 => some (.lda (.mem (.zpx b)))
  | 0x6#4 => some (.ldx (.mem (.zpy b)))
  | 0x8#4 => some (.clv)
  | 0x9#4 => some (.lda (.mem (.aby w)))
  | 0xA#4 => some (.tsx)
  | 0xC#4 => some (.ldy (.mem (.abx w)))
  | 0xD#4 => some (.lda (.mem (.abx w)))
  | 0xE#4 => some (.ldx (.mem (.aby w)))
  | _ => none

/-- Row Cx of R130. -/
def decodeRowC (lo : BitVec 4) (b : Byte) (w : Word) : Option Instr :=
  match lo with
  | 0x0#4 => some (.cpy (.imm b))
  | 0x1#4 => some (.cmp (.mem (.izx b)))
  | 0x4#4 => some (.cpy (.mem (.zp b)))
  | 0x5#4 => some (.cmp (.mem (.zp b)))
  | 0x6#4 => some (.dec (.zp b))
  | 0x8#4 => some (.iny)
  | 0x9#4 => some (.cmp (.imm b))
  | 0xA#4 => some (.dex)
  | 0xC#4 => some (.cpy (.mem (.abs w)))
  | 0xD#4 => some (.cmp (.mem (.abs w)))
  | 0xE#4 => some (.dec (.abs w))
  | _ => none

/-- Row Dx of R130. -/
def decodeRowD (lo : BitVec 4) (b : Byte) (w : Word) : Option Instr :=
  match lo with
  | 0x0#4 => some (.bne b)
  | 0x1#4 => some (.cmp (.mem (.izy b)))
  | 0x5#4 => some (.cmp (.mem (.zpx b)))
  | 0x6#4 => some (.dec (.zpx b))
  | 0x8#4 => some (.cld)
  | 0x9#4 => some (.cmp (.mem (.aby w)))
  | 0xD#4 => some (.cmp (.mem (.abx w)))
  | 0xE#4 => some (.dec (.abx w))
  | _ => none

/-- Row Ex of R130. -/
def decodeRowE (lo : BitVec 4) (b : Byte) (w : Word) : Option Instr :=
  match lo with
  | 0x0#4 => some (.cpx (.imm b))
  | 0x1#4 => some (.sbc (.mem (.izx b)))
  | 0x4#4 => some (.cpx (.mem (.zp b)))
  | 0x5#4 => some (.sbc (.mem (.zp b)))
  | 0x6#4 => some (.inc (.zp b))
  | 0x8#4 => some (.inx)
  | 0x9#4 => some (.sbc (.imm b))
  | 0xA#4 => some (.nop)
  | 0xC#4 => some (.cpx (.mem (.abs w)))
  | 0xD#4 => some (.sbc (.mem (.abs w)))
  | 0xE#4 => some (.inc (.abs w))
  | _ => none

/-- Row Fx of R130. -/
def decodeRowF (lo : BitVec 4) (b : Byte) (w : Word) : Option Instr :=
  match lo with
  | 0x0#4 => some (.beq b)
  | 0x1#4 => some (.sbc (.mem (.izy b)))
  | 0x5#4 => some (.sbc (.mem (.zpx b)))
  | 0x6#4 => some (.inc (.zpx b))
  | 0x8#4 => some (.sed)
  | 0x9#4 => some (.sbc (.mem (.aby w)))
  | 0xD#4 => some (.sbc (.mem (.abx w)))
  | 0xE#4 => some (.inc (.abx w))
  | _ => none


/-- The row of R130 for a high nibble. -/
def decodeRow (hi lo : BitVec 4) (b : Byte) (w : Word) : Option Instr :=
  match hi with
  | 0x0#4 => decodeRow0 lo b w
  | 0x1#4 => decodeRow1 lo b w
  | 0x2#4 => decodeRow2 lo b w
  | 0x3#4 => decodeRow3 lo b w
  | 0x4#4 => decodeRow4 lo b w
  | 0x5#4 => decodeRow5 lo b w
  | 0x6#4 => decodeRow6 lo b w
  | 0x7#4 => decodeRow7 lo b w
  | 0x8#4 => decodeRow8 lo b w
  | 0x9#4 => decodeRow9 lo b w
  | 0xA#4 => decodeRowA lo b w
  | 0xB#4 => decodeRowB lo b w
  | 0xC#4 => decodeRowC lo b w
  | 0xD#4 => decodeRowD lo b w
  | 0xE#4 => decodeRowE lo b w
  | _ => decodeRowF lo b w

/-- The instruction whose opcode byte is `op` and whose following bytes are `b1`, `b2` (as many of them as
its mode uses): R130, and R132 for a byte without an entry. Total: every byte is an opcode. -/
def decodeOp (op b1 b2 : Byte) : Instr :=
  (decodeRow (op.extractLsb' 4 4) (op.extractLsb' 0 4) b1 (join b2 b1)).getD (.und op)

/-- Why a list of bytes does not begin with an instruction. -/
inductive DecodeError where
  /-- There is no byte at all. -/
  | noOpcode
  /-- The opcode asks for more operand bytes than follow it. -/
  | missingOperandBytes
  deriving DecidableEq, Repr

/-- Reads one instruction from the front of a list of bytes and gives it with the bytes after it (R110).
It refuses only a list that ends inside the instruction. -/
def decode : List Byte → Except DecodeError (Instr × List Byte)
  | [] => .error .noOpcode
  | op :: rest =>
    let i := decodeOp op (rest.getD 0 0) (rest.getD 1 0)
    if rest.length + 1 < i.length then .error .missingOperandBytes
    else .ok (i, rest.drop (i.length - 1))

/-- The opcode bytes of an instruction's mnemonic, by addressing mode (R131); of `und`, the byte it
carries, if it is an undefined opcode (R132). -/
def Instr.opcodes : Instr → List (Mode × Byte)
  | .lda _ => [(.imm, 0xA9), (.zp, 0xA5), (.zpx, 0xB5), (.abs, 0xAD), (.abx, 0xBD), (.aby, 0xB9), (.izx, 0xA1), (.izy, 0xB1)]
  | .ldx _ => [(.imm, 0xA2), (.zp, 0xA6), (.zpy, 0xB6), (.abs, 0xAE), (.aby, 0xBE)]
  | .ldy _ => [(.imm, 0xA0), (.zp, 0xA4), (.zpx, 0xB4), (.abs, 0xAC), (.abx, 0xBC)]
  | .sta _ => [(.zp, 0x85), (.zpx, 0x95), (.abs, 0x8D), (.abx, 0x9D), (.aby, 0x99), (.izx, 0x81), (.izy, 0x91)]
  | .stx _ => [(.zp, 0x86), (.zpy, 0x96), (.abs, 0x8E)]
  | .sty _ => [(.zp, 0x84), (.zpx, 0x94), (.abs, 0x8C)]
  | .tax => [(.imp, 0xAA)]
  | .tay => [(.imp, 0xA8)]
  | .txa => [(.imp, 0x8A)]
  | .tya => [(.imp, 0x98)]
  | .tsx => [(.imp, 0xBA)]
  | .txs => [(.imp, 0x9A)]
  | .adc _ => [(.imm, 0x69), (.zp, 0x65), (.zpx, 0x75), (.abs, 0x6D), (.abx, 0x7D), (.aby, 0x79), (.izx, 0x61), (.izy, 0x71)]
  | .sbc _ => [(.imm, 0xE9), (.zp, 0xE5), (.zpx, 0xF5), (.abs, 0xED), (.abx, 0xFD), (.aby, 0xF9), (.izx, 0xE1), (.izy, 0xF1)]
  | .and _ => [(.imm, 0x29), (.zp, 0x25), (.zpx, 0x35), (.abs, 0x2D), (.abx, 0x3D), (.aby, 0x39), (.izx, 0x21), (.izy, 0x31)]
  | .ora _ => [(.imm, 0x09), (.zp, 0x05), (.zpx, 0x15), (.abs, 0x0D), (.abx, 0x1D), (.aby, 0x19), (.izx, 0x01), (.izy, 0x11)]
  | .eor _ => [(.imm, 0x49), (.zp, 0x45), (.zpx, 0x55), (.abs, 0x4D), (.abx, 0x5D), (.aby, 0x59), (.izx, 0x41), (.izy, 0x51)]
  | .bit _ => [(.zp, 0x24), (.abs, 0x2C)]
  | .cmp _ => [(.imm, 0xC9), (.zp, 0xC5), (.zpx, 0xD5), (.abs, 0xCD), (.abx, 0xDD), (.aby, 0xD9), (.izx, 0xC1), (.izy, 0xD1)]
  | .cpx _ => [(.imm, 0xE0), (.zp, 0xE4), (.abs, 0xEC)]
  | .cpy _ => [(.imm, 0xC0), (.zp, 0xC4), (.abs, 0xCC)]
  | .inc _ => [(.zp, 0xE6), (.zpx, 0xF6), (.abs, 0xEE), (.abx, 0xFE)]
  | .dec _ => [(.zp, 0xC6), (.zpx, 0xD6), (.abs, 0xCE), (.abx, 0xDE)]
  | .inx => [(.imp, 0xE8)]
  | .iny => [(.imp, 0xC8)]
  | .dex => [(.imp, 0xCA)]
  | .dey => [(.imp, 0x88)]
  | .asl _ => [(.acc, 0x0A), (.zp, 0x06), (.zpx, 0x16), (.abs, 0x0E), (.abx, 0x1E)]
  | .lsr _ => [(.acc, 0x4A), (.zp, 0x46), (.zpx, 0x56), (.abs, 0x4E), (.abx, 0x5E)]
  | .rol _ => [(.acc, 0x2A), (.zp, 0x26), (.zpx, 0x36), (.abs, 0x2E), (.abx, 0x3E)]
  | .ror _ => [(.acc, 0x6A), (.zp, 0x66), (.zpx, 0x76), (.abs, 0x6E), (.abx, 0x7E)]
  | .bcc _ => [(.rel, 0x90)]
  | .bcs _ => [(.rel, 0xB0)]
  | .beq _ => [(.rel, 0xF0)]
  | .bmi _ => [(.rel, 0x30)]
  | .bne _ => [(.rel, 0xD0)]
  | .bpl _ => [(.rel, 0x10)]
  | .bvc _ => [(.rel, 0x50)]
  | .bvs _ => [(.rel, 0x70)]
  | .jmp _ => [(.abs, 0x4C), (.ind, 0x6C)]
  | .jsr _ => [(.abs, 0x20)]
  | .rts => [(.imp, 0x60)]
  | .pha => [(.imp, 0x48)]
  | .php => [(.imp, 0x08)]
  | .pla => [(.imp, 0x68)]
  | .plp => [(.imp, 0x28)]
  | .clc => [(.imp, 0x18)]
  | .sec => [(.imp, 0x38)]
  | .cli => [(.imp, 0x58)]
  | .sei => [(.imp, 0x78)]
  | .cld => [(.imp, 0xD8)]
  | .sed => [(.imp, 0xF8)]
  | .clv => [(.imp, 0xB8)]
  | .nop => [(.imp, 0xEA)]
  | .brk => [(.imp, 0x00)]
  | .rti => [(.imp, 0x40)]
  | .und op => if undefinedOpcodes.contains op then [(.und, op)] else []

/-- The opcode byte of an instruction, if its mnemonic has its addressing mode. -/
def Instr.opcode (i : Instr) : Option Byte := i.opcodes.lookup i.mode

/-- The two bytes of a word operand, low byte first (R110, 20_memory.md R80). -/
def wordBytes (w : Word) : List Byte := [lo w, hi w]

/-- The operand bytes of a memory operand. -/
def MemOperand.bytes : MemOperand → List Byte
  | .zp a | .zpx a | .zpy a | .izx a | .izy a => [a]
  | .abs w | .abx w | .aby w => wordBytes w

/-- The operand bytes of a read operand. -/
def ReadOperand.bytes : ReadOperand → List Byte
  | .imm v => [v]
  | .mem m => m.bytes

/-- The operand bytes of a shift operand. -/
def ShiftOperand.bytes : ShiftOperand → List Byte
  | .acc => []
  | .mem m => m.bytes

/-- The operand bytes of a jump operand. -/
def JumpOperand.bytes : JumpOperand → List Byte
  | .abs w | .ind w => wordBytes w

/-- The operand bytes of an instruction. -/
def Instr.operandBytes : Instr → List Byte
  | .lda x => x.bytes
  | .ldx x => x.bytes
  | .ldy x => x.bytes
  | .sta x => x.bytes
  | .stx x => x.bytes
  | .sty x => x.bytes
  | .tax => []
  | .tay => []
  | .txa => []
  | .tya => []
  | .tsx => []
  | .txs => []
  | .adc x => x.bytes
  | .sbc x => x.bytes
  | .and x => x.bytes
  | .ora x => x.bytes
  | .eor x => x.bytes
  | .bit x => x.bytes
  | .cmp x => x.bytes
  | .cpx x => x.bytes
  | .cpy x => x.bytes
  | .inc x => x.bytes
  | .dec x => x.bytes
  | .inx => []
  | .iny => []
  | .dex => []
  | .dey => []
  | .asl x => x.bytes
  | .lsr x => x.bytes
  | .rol x => x.bytes
  | .ror x => x.bytes
  | .bcc x => [x]
  | .bcs x => [x]
  | .beq x => [x]
  | .bmi x => [x]
  | .bne x => [x]
  | .bpl x => [x]
  | .bvc x => [x]
  | .bvs x => [x]
  | .jmp x => x.bytes
  | .jsr x => wordBytes x
  | .rts => []
  | .pha => []
  | .php => []
  | .pla => []
  | .plp => []
  | .clc => []
  | .sec => []
  | .cli => []
  | .sei => []
  | .cld => []
  | .sed => []
  | .clv => []
  | .nop => []
  | .brk => []
  | .rti => []
  | .und _ => []

/-- The bytes of a well-formed instruction: its opcode and its operand bytes. None for an ill-formed one. -/
def encode (i : Instr) : Option (List Byte) := i.opcode.map fun op => op :: i.operandBytes

/-- The host's question: the instruction the decoder reads from the bits `w`, `nbits` of them, the first
byte least significant; every bit above `nbits` is zero. -/
def decodeTableWord (nbits w : Nat) : Option Instr :=
  let v := w % 2 ^ nbits
  match decode [byteOf v 0, byteOf v 1, byteOf v 2] with
  | .ok (i, _) => some i
  | .error _ => none

end Sys2Proof
end

