-- ==== Sys2Proof/Machine/Flags.lean ====
section
/-! DEFINITION. The status flags and every flag computation of the spec (10_state.md R26–R31; the
arithmetic of 41_arithmetic_logic.md and 42_shift_rotate.md). -/

namespace Sys2Proof.Machine

/-- The flags of `P`, bit 0 upward (R26). -/
inductive Flag where
  | c | z | i | d | b | u | v | n
  deriving DecidableEq, Repr

/-- The mask of a flag in `P` (R26). -/
def Flag.mask : Flag → Byte
  | .c => 0x01
  | .z => 0x02
  | .i => 0x04
  | .d => 0x08
  | .b => 0x10
  | .u => 0x20
  | .v => 0x40
  | .n => 0x80

/-- A flag of a status byte. -/
def flagOf (p : Byte) (f : Flag) : Bool := p &&& f.mask != 0

/-- A status byte with one flag set to `b`, the others kept. -/
def putFlag (p : Byte) (f : Flag) (b : Bool) : Byte := if b then p ||| f.mask else p &&& ~~~f.mask

/-- A flag of the register `P`. -/
def State.flag (s : State) (f : Flag) : Bool := flagOf s.p f

/-- `P.f <- b`. -/
def State.setFlag (s : State) (f : Flag) (b : Bool) : State := s.withP (putFlag s.p f b)

/-- `SetNZ(r)` (R28). -/
def State.setNZ (s : State) (r : Byte) : State := (s.setFlag .z (r == 0)).setFlag .n (r.getLsbD 7)

/-- The flag C as the number an addition adds. -/
def State.carryIn (s : State) : Nat := if s.flag .c then 1 else 0

/-- An 8-bit result with its carry. -/
structure Carried where
  value : Byte
  carry : Bool
  deriving DecidableEq, Repr

/-- The exact sum `a + b + c` cut to 8 bits, with bit 8 as the carry (R28, R170). -/
def addCarry (a b : Byte) (c : Nat) : Carried :=
  let s := a.toNat + b.toNat + c
  ⟨BitVec.ofNat 8 s, s.testBit 8⟩

/-- Signed overflow of an addition with operands `a`, `b` and result `r`:
`((~(a ^ b)) & (a ^ r) & 0x80) != 0` (R28). -/
def overflow (a b r : Byte) : Bool := (~~~(a ^^^ b) &&& (a ^^^ r) &&& 0x80) != 0

/-- One's complement of a subtrahend: `M ^ 0xFF` (R171). -/
def complement (m : Byte) : Byte := m ^^^ 0xFF

/-- `t <- r + (M ^ 0xFF) + 1`, the comparison of R176. -/
def compareCarry (r m : Byte) : Carried := addCarry r (complement m) 1

/-- ASL (R190): the exact double, bit 8 the carry. -/
def shiftLeft (v : Byte) (_ : Bool) : Carried :=
  let s := v.toNat * 2
  ⟨BitVec.ofNat 8 s, s.testBit 8⟩

/-- LSR (R191): the half, bit 0 the carry. -/
def shiftRight (v : Byte) (_ : Bool) : Carried := ⟨v >>> 1, v.getLsbD 0⟩

/-- ROL (R192): the exact double plus the old carry, bit 8 the carry. -/
def rotateLeft (v : Byte) (c : Bool) : Carried :=
  let s := v.toNat * 2 + c.toNat
  ⟨BitVec.ofNat 8 s, s.testBit 8⟩

/-- ROR (R193): the old carry enters bit 7, bit 0 leaves as the carry. -/
def rotateRight (v : Byte) (c : Bool) : Carried :=
  ⟨(if c then 0x80 else 0x00) ||| (v >>> 1), v.getLsbD 0⟩

/-- The status byte PHP and BRK push: `P | 0x30` (R31). -/
def pushedBySoftware (p : Byte) : Byte := p ||| 0x30

/-- The status byte interrupt entry pushes: `(P & 0xCF) | 0x20 | (b * 0x10)` (60_exceptions.md R263). -/
def pushedByInterrupt (p : Byte) (b : Bool) : Byte := (p &&& 0xCF) ||| 0x20 ||| (if b then 0x10 else 0x00)

/-- The register value PLP, RTI and a restore load: `(p & 0xCF) | 0x20` (R31). -/
def loadedStatus (p : Byte) : Byte := (p &&& 0xCF) ||| 0x20

end Sys2Proof.Machine
end

