-- ==== Sys2Proof/Machine/Ops.lean ====
section
/-! DEFINITION. The named operations over memory and registers: the byte arrays, the bus with its bank
decoding and peripheral window (spec 20_memory.md), the stack (10_state.md R24), and taking a trap and
returning from one (44 R232, R233; 60_exceptions.md R263). -/

namespace Sys2Proof.Machine

/-! ## Byte arrays -/

/-- What an unlisted address of a byte array reads as (log entry 2: DESIGN CHOICE for RAM the spec leaves
unspecified, R45). -/
def Memory.unlisted : Byte := 0x00

/-- The byte at an address. -/
def Memory.read : Memory → Nat → Byte
  | [], _ => Memory.unlisted
  | c :: rest, a => if c.1 = a then c.2 else Memory.read rest a

/-- Lists a byte at its address, in rising order, over the byte listed there before. -/
def Memory.insert : Memory → Nat → Byte → Memory
  | [], a, v => [(a, v)]
  | c :: rest, a, v =>
    if a < c.1 then (a, v) :: c :: rest
    else if c.1 = a then (a, v) :: rest
    else c :: Memory.insert rest a v

/-- Stores a byte. Storing what an unlisted address reads as removes the entry. -/
def Memory.write (m : Memory) (a : Nat) (v : Byte) : Memory :=
  if v = Memory.unlisted then m.filter fun c => c.1 ≠ a else Memory.insert m a v

/-- The canonical form from address `low` up: addresses strictly rising and below `size`, no entry equal
to what an unlisted address reads as. -/
def Memory.wfFrom (size low : Nat) : Memory → Bool
  | [] => true
  | c :: rest => low ≤ c.1 && c.1 < size && c.2 != Memory.unlisted && Memory.wfFrom size (c.1 + 1) rest

/-- The canonical form of a byte array of `size` bytes. -/
def Memory.wf (size : Nat) (m : Memory) : Bool := Memory.wfFrom size 0 m

/-- The byte array that holds `bytes` from address `base` on, and nothing else. -/
def Memory.ofBytes : Nat → List Byte → Memory
  | _, [] => []
  | base, v :: rest =>
    if v = Memory.unlisted then Memory.ofBytes (base + 1) rest
    else (base, v) :: Memory.ofBytes (base + 1) rest

/-- Stores the given bytes in order. -/
def Memory.writeAll (m : Memory) (cells : List (Word × Byte)) : Memory :=
  cells.foldl (fun acc c => Memory.write acc c.1.toNat c.2) m

/-- `RAM[a]`: the RAM array itself, not through the decoder (20_memory.md R62). -/
def State.ram (s : State) (a : Word) : Byte := Memory.read s.mem a.toNat

/-- `RAM[a] <- v`. -/
def State.setRam (s : State) (a : Word) (v : Byte) : State := s.withMem (Memory.write s.mem a.toNat v)

/-! ## The bus -/

/-- The bank bits: the low three of the bank-select register `RAM[1]` (10_state.md R36, R65). -/
def State.bank (s : State) : BitVec 3 := (s.ram 0x0001).extractLsb' 0 3

/-- `BankDecode` at the current bank bits (R66). -/
def State.bankView (s : State) : BankView := s.cfg.bankDecode[s.bank.toNat]'(s.bank.isLt)

/-- The stores behind the address space (R61, R64). -/
inductive Store where
  | ram
  | romExt
  | romSys
  | romGlyph
  | peripherals
  deriving DecidableEq, Repr

/-- The one store that backs an address under a bank view, in the resolution order of R67. -/
def storeOf (view : BankView) (a : Word) : Store :=
  if 0xA000 ≤ a.toNat ∧ a.toNat ≤ 0xBFFF ∧ view.extRom then .romExt
  else if 0xE000 ≤ a.toNat ∧ view.sysRom then .romSys
  else if 0xD000 ≤ a.toNat ∧ a.toNat ≤ 0xDFFF then
    match view.window with
    | .glyphRom => .romGlyph
    | .peripherals => .peripherals
    | .ram => .ram
  else .ram

/-- The store that backs an address now (R65). -/
def State.store (s : State) (a : Word) : Store := storeOf s.bankView a

/-- `RasterLine(c)` (R76). -/
def rasterLine (cfg : Config) (c : Nat) : Nat := c / cfg.cyclesPerLine % cfg.linesPerFrame

/-- `PeriphRead(a)` (R73): the raster readback (R76), else passthrough (R74). -/
def State.periphRead (s : State) (a : Word) : Byte :=
  if a = s.cfg.rasterReg then BitVec.ofNat 8 (rasterLine s.cfg s.cycles) else s.ram a

/-- The byte `PeriphWrite(a, v)` stores at `RAM[a]` (R73): write-one-to-clear at the interrupt-status
address (R77), the low four bits in colour RAM (R78), else passthrough (R74). -/
def State.periphStored (s : State) (a : Word) (v : Byte) : Byte :=
  if a = s.cfg.irqStatusReg then s.ram a &&& ~~~v
  else if 0xD800 ≤ a.toNat ∧ a.toNat ≤ 0xDBFF then v &&& 0x0F
  else v

/-- `MemRead(a, 1)` (R67, R70). -/
def State.read (s : State) (a : Word) : Byte :=
  match s.store a with
  | .romExt => Memory.read s.roms.ext (a.toNat - 0xA000)
  | .romSys => Memory.read s.roms.sys (a.toNat - 0xE000)
  | .romGlyph => Memory.read s.roms.glyph (a.toNat - 0xD000)
  | .peripherals => s.periphRead a
  | .ram => s.ram a

/-- The RAM array after `MemWrite(a, 1, v)`: unchanged where a ROM shadows the address (R68). -/
def State.memAfterWrite (s : State) (a : Word) (v : Byte) : Memory :=
  match s.store a with
  | .romExt => s.mem
  | .romSys => s.mem
  | .romGlyph => s.mem
  | .peripherals => Memory.write s.mem a.toNat (s.periphStored a v)
  | .ram => Memory.write s.mem a.toNat v

/-- `MemWrite(a, 1, v)` (R68, R71): its only effect is on RAM bytes. -/
def State.write (s : State) (a : Word) (v : Byte) : State := s.withMem (s.memAfterWrite a v)

/-- `Read16(a)` (00_scope.md R11, R80): little-endian. -/
def State.read16 (s : State) (a : Word) : Word := join (s.read (a + 1)) (s.read a)

/-! ## The stack -/

/-- The stack address at an offset: `STACK_BASE + SP` (10_state.md R24). -/
def State.stackAddr (s : State) (offset : Byte) : Word := s.cfg.stackBase + zext offset

/-- `Push(v)`: store at the stack pointer, then decrement it, modulo 256 (R24). -/
def State.push (s : State) (v : Byte) : State :=
  (s.write (s.stackAddr s.sp) v).withSp (s.sp - 1)

/-- `Pull()`: increment the stack pointer, modulo 256, then read there (R24). -/
def State.pull (s : State) : Byte × State :=
  let t := s.withSp (s.sp + 1)
  (t.read (t.stackAddr t.sp), t)

/-- Pushes a word, high byte first, so that the low byte lies lower (R80). -/
def State.pushWord (s : State) (w : Word) : State := (s.push (hi w)).push (lo w)

/-- Pulls a word, low byte first. -/
def State.pullWord (s : State) : Word × State :=
  let l := s.pull
  let h := l.2.pull
  (join h.1 l.1, h.2)

/-! ## Traps -/

/-- Taking a trap, shared by BRK (44 R232) and interrupt entry (60 R263): push the return address and
a status byte, set I, and jump through a vector read on the bus after the pushes. -/
def State.trapEntry (s : State) (ret : Word) (status : Byte) (vector : Word) : State :=
  let t := ((s.pushWord ret).push status).setFlag .i true
  t.withPc (t.read16 vector)

/-- Returning from a trap (RTI, 44 R233): pull the status, then the program counter as it was pushed. -/
def State.trapReturn (s : State) : State :=
  let p := s.pull
  let r := (p.2.withP (loadedStatus p.1)).pullWord
  r.2.withPc r.1

/-! ## One instruction -/

/-- PC moved past `n` bytes, modulo 65536 (10_state.md R33, R34). -/
def State.advance (s : State) (n : Nat) : State := s.withPc (s.pc + BitVec.ofNat 16 n)

/-- `cycles <- cycles + n` (R40). -/
def State.spend (s : State) (n : Nat) : State := s.withCycles (s.cycles + n)

/-- The shape every instruction has (30_encoding.md R111): PC passes the instruction's bytes, the
operation is performed, its cycles are added. It always completes. -/
def complete (length cost : Nat) (body : State → State) (s : State) : Result :=
  .next ((body (s.advance length)).spend cost)

end Sys2Proof.Machine
end

