-- ==== Sys2Proof/Machine/Operands.lean ====
section
/-! DEFINITION. The addressing modes (spec 30_encoding.md R114–R126): effective addresses, operand
values, jump targets and branch targets. Operand bytes stand in the instruction (decoded at the fetch),
so these read the state only for index registers and pointers. -/

namespace Sys2Proof.Machine

/-- The word pointed to from page zero, whose second byte wraps within the page (R124, R125). -/
def State.zeroPagePointer (s : State) (z : Byte) : Word := join (s.read (zext (z + 1))) (s.read (zext z))

/-- The effective address of a memory operand (R117–R122, R124, R125). -/
def State.ea (s : State) : MemOperand → Word
  | .zp b => zext b
  | .zpx b => zext (b + s.x)
  | .zpy b => zext (b + s.y)
  | .izx b => s.zeroPagePointer (b + s.x)
  | .izy b => s.zeroPagePointer b + zext s.y
  | .abs w => w
  | .abx w => w + zext s.x
  | .aby w => w + zext s.y

/-- The value `M` of a read operand: the immediate byte (R116) or the byte at the effective address. -/
def State.operand (s : State) : ReadOperand → Byte
  | .imm v => v
  | .mem m => s.read (s.ea m)

/-- The target of JMP: the operand (R120), or the word behind the pointer, whose high byte is taken
without carrying into the pointer's high byte when `JMP_IND_PAGE_WRAP` (R123). -/
def State.jumpTarget (s : State) : JumpOperand → Word
  | .abs w => w
  | .ind ptr =>
    let second := if s.cfg.jmpIndPageWrap then join (hi ptr) (lo ptr + 1) else ptr + 1
    join (s.read second) (s.read ptr)

/-- The target of a branch: PC is already the next instruction's address (R126). -/
def State.branchTarget (s : State) (d : Byte) : Word := s.pc + sext d

end Sys2Proof.Machine
end

