-- ==== Sys2Proof/Machine/LoadStore.lean ====
section
/-! DEFINITION. Load, store and register-transfer instructions (spec 40_load_store_transfer.md). -/

namespace Sys2Proof.Machine

/-- `A <- v; SetNZ(A)`. -/
def State.loadA (s : State) (v : Byte) : State := (s.withA v).setNZ v

/-- `X <- v; SetNZ(X)`. -/
def State.loadX (s : State) (v : Byte) : State := (s.withX v).setNZ v

/-- `Y <- v; SetNZ(Y)`. -/
def State.loadY (s : State) (v : Byte) : State := (s.withY v).setNZ v

/-- LDA (R150). -/
def execLda (o : ReadOperand) (s : State) : Result :=
  complete o.mode.length (readCycles o) (fun t => t.loadA (t.operand o)) s

/-- LDX (R151). -/
def execLdx (o : ReadOperand) (s : State) : Result :=
  complete o.mode.length (readCycles o) (fun t => t.loadX (t.operand o)) s

/-- LDY (R152). -/
def execLdy (o : ReadOperand) (s : State) : Result :=
  complete o.mode.length (readCycles o) (fun t => t.loadY (t.operand o)) s

/-- STA (R153). -/
def execSta (m : MemOperand) (s : State) : Result :=
  complete m.mode.length (storeCycles m) (fun t => t.write (t.ea m) t.a) s

/-- STX (R154). -/
def execStx (m : MemOperand) (s : State) : Result :=
  complete m.mode.length (storeCycles m) (fun t => t.write (t.ea m) t.x) s

/-- STY (R155). -/
def execSty (m : MemOperand) (s : State) : Result :=
  complete m.mode.length (storeCycles m) (fun t => t.write (t.ea m) t.y) s

/-- TAX (R156). -/
def execTax (s : State) : Result := complete 1 2 (fun t => t.loadX t.a) s

/-- TAY (R157). -/
def execTay (s : State) : Result := complete 1 2 (fun t => t.loadY t.a) s

/-- TXA (R158). -/
def execTxa (s : State) : Result := complete 1 2 (fun t => t.loadA t.x) s

/-- TYA (R159). -/
def execTya (s : State) : Result := complete 1 2 (fun t => t.loadA t.y) s

/-- TSX (R160). -/
def execTsx (s : State) : Result := complete 1 2 (fun t => t.loadX t.sp) s

/-- TXS (R161): no flag. -/
def execTxs (s : State) : Result := complete 1 2 (fun t => t.withSp t.x) s

end Sys2Proof.Machine
end

