-- ==== Sys2Proof/Machine/Arith.lean ====
section
/-! DEFINITION. Arithmetic, logic, compare, increment and decrement (spec 41_arithmetic_logic.md).
Decimal mode changes nothing (10_state.md R30): no definition here reads D. -/

namespace Sys2Proof.Machine

/-- `A <- A + b + C` with C, V, N and Z set from the addition (R170; R171 with `b` the complement). -/
def State.addToA (s : State) (b : Byte) : State :=
  let r := addCarry s.a b s.carryIn
  ((s.setFlag .c r.carry).setFlag .v (overflow s.a b r.value)).loadA r.value

/-- Sets C, N and Z from comparing `r` with `m` (R176). -/
def State.compare (s : State) (r m : Byte) : State :=
  let t := compareCarry r m
  (s.setFlag .c t.carry).setNZ t.value

/-- Reads the byte at `ea`, writes `f` of it back and sets N and Z from it: one read, one write (R179,
R180, 20_memory.md R82). -/
def State.modify (s : State) (ea : Word) (f : Byte → Byte) : State :=
  let r := f (s.read ea)
  (s.write ea r).setNZ r

/-- BIT's flags: Z from `A & M`, N and V from M (R175). -/
def State.testBits (s : State) (m : Byte) : State :=
  ((s.setFlag .z (s.a &&& m == 0)).setFlag .n (m.getLsbD 7)).setFlag .v (m.getLsbD 6)

/-- ADC (R170). -/
def execAdc (o : ReadOperand) (s : State) : Result :=
  complete o.mode.length (readCycles o) (fun t => t.addToA (t.operand o)) s

/-- SBC (R171). -/
def execSbc (o : ReadOperand) (s : State) : Result :=
  complete o.mode.length (readCycles o) (fun t => t.addToA (complement (t.operand o))) s

/-- AND (R172). -/
def execAnd (o : ReadOperand) (s : State) : Result :=
  complete o.mode.length (readCycles o) (fun t => t.loadA (t.a &&& t.operand o)) s

/-- ORA (R173). -/
def execOra (o : ReadOperand) (s : State) : Result :=
  complete o.mode.length (readCycles o) (fun t => t.loadA (t.a ||| t.operand o)) s

/-- EOR (R174). -/
def execEor (o : ReadOperand) (s : State) : Result :=
  complete o.mode.length (readCycles o) (fun t => t.loadA (t.a ^^^ t.operand o)) s

/-- BIT (R175). -/
def execBit (m : MemOperand) (s : State) : Result :=
  complete m.mode.length (memReadCycles m) (fun t => t.testBits (t.operand (.mem m))) s

/-- CMP (R176). -/
def execCmp (o : ReadOperand) (s : State) : Result :=
  complete o.mode.length (readCycles o) (fun t => t.compare t.a (t.operand o)) s

/-- CPX (R177). -/
def execCpx (o : ReadOperand) (s : State) : Result :=
  complete o.mode.length (readCycles o) (fun t => t.compare t.x (t.operand o)) s

/-- CPY (R178). -/
def execCpy (o : ReadOperand) (s : State) : Result :=
  complete o.mode.length (readCycles o) (fun t => t.compare t.y (t.operand o)) s

/-- INC (R179). -/
def execInc (m : MemOperand) (s : State) : Result :=
  complete m.mode.length (modifyCycles m) (fun t => t.modify (t.ea m) (fun v => v + 1)) s

/-- DEC (R180). -/
def execDec (m : MemOperand) (s : State) : Result :=
  complete m.mode.length (modifyCycles m) (fun t => t.modify (t.ea m) (fun v => v - 1)) s

/-- INX (R181). -/
def execInx (s : State) : Result := complete 1 2 (fun t => t.loadX (t.x + 1)) s

/-- INY (R182). -/
def execIny (s : State) : Result := complete 1 2 (fun t => t.loadY (t.y + 1)) s

/-- DEX (R183). -/
def execDex (s : State) : Result := complete 1 2 (fun t => t.loadX (t.x - 1)) s

/-- DEY (R184). -/
def execDey (s : State) : Result := complete 1 2 (fun t => t.loadY (t.y - 1)) s

end Sys2Proof.Machine
end

