-- ==== Sys2Proof/Machine/Control.lean ====
section
/-! DEFINITION. Branches, jumps, call and return (spec 43_control_flow.md). -/

namespace Sys2Proof.Machine

/-- The extra cycles of a branch: one when taken, one more when its target lies on another page than
the next instruction, whose address `next` is (R200, D9). -/
def branchExtra (taken : Bool) (next target : Word) : Nat :=
  if taken then (if hi target = hi next then 1 else 2) else 0

/-- The common branch rule (R200). -/
def branch (taken : Bool) (d : Byte) (s : State) : Result :=
  let next := s.advance 2
  let target := next.branchTarget d
  complete 2 (2 + branchExtra taken next.pc target) (fun t => if taken then t.withPc target else t) s

/-- BCC (R201). -/
def execBcc (d : Byte) (s : State) : Result := branch (!s.flag .c) d s

/-- BCS (R202). -/
def execBcs (d : Byte) (s : State) : Result := branch (s.flag .c) d s

/-- BEQ (R203). -/
def execBeq (d : Byte) (s : State) : Result := branch (s.flag .z) d s

/-- BMI (R204). -/
def execBmi (d : Byte) (s : State) : Result := branch (s.flag .n) d s

/-- BNE (R205). -/
def execBne (d : Byte) (s : State) : Result := branch (!s.flag .z) d s

/-- BPL (R206). -/
def execBpl (d : Byte) (s : State) : Result := branch (!s.flag .n) d s

/-- BVC (R207). -/
def execBvc (d : Byte) (s : State) : Result := branch (!s.flag .v) d s

/-- BVS (R208). -/
def execBvs (d : Byte) (s : State) : Result := branch (s.flag .v) d s

/-- JMP (R209). -/
def execJmp (o : JumpOperand) (s : State) : Result :=
  complete o.mode.length (jumpCycles o) (fun t => t.withPc (t.jumpTarget o)) s

/-- JSR (R210): pushes the address of its own last byte. -/
def execJsr (target : Word) (s : State) : Result :=
  complete 3 6 (fun t => (t.pushWord (t.pc - 1)).withPc target) s

/-- RTS (R211): adds one to the pulled address. -/
def execRts (s : State) : Result :=
  complete 1 6 (fun t => t.pullWord.2.withPc (t.pullWord.1 + 1)) s

end Sys2Proof.Machine
end

