-- ==== Sys2Proof/Machine/Shift.lean ====
section
/-! DEFINITION. Shift and rotate instructions (spec 42_shift_rotate.md). -/

namespace Sys2Proof.Machine

/-- Applies a shift to the operand and sets C, N and Z from it (R194): on A, or on the byte at the
effective address with one read and one write. -/
def State.shift (s : State) (o : ShiftOperand) (f : Byte → Bool → Carried) : State :=
  match o with
  | .acc =>
    let r := f s.a (s.flag .c)
    (s.setFlag .c r.carry).loadA r.value
  | .mem m =>
    let ea := s.ea m
    let r := f (s.read ea) (s.flag .c)
    ((s.write ea r.value).setFlag .c r.carry).setNZ r.value

/-- ASL (R190). -/
def execAsl (o : ShiftOperand) (s : State) : Result :=
  complete o.mode.length (shiftCycles o) (fun t => t.shift o shiftLeft) s

/-- LSR (R191). -/
def execLsr (o : ShiftOperand) (s : State) : Result :=
  complete o.mode.length (shiftCycles o) (fun t => t.shift o shiftRight) s

/-- ROL (R192). -/
def execRol (o : ShiftOperand) (s : State) : Result :=
  complete o.mode.length (shiftCycles o) (fun t => t.shift o rotateLeft) s

/-- ROR (R193). -/
def execRor (o : ShiftOperand) (s : State) : Result :=
  complete o.mode.length (shiftCycles o) (fun t => t.shift o rotateRight) s

end Sys2Proof.Machine
end

