-- ==== Sys2Proof/Machine/System.lean ====
section
/-! DEFINITION. Stack, flag and system instructions, and undefined opcodes (spec
44_stack_flags_system.md). -/

namespace Sys2Proof.Machine

/-- PHA (R220). -/
def execPha (s : State) : Result := complete 1 3 (fun t => t.push t.a) s

/-- PHP (R221). -/
def execPhp (s : State) : Result := complete 1 3 (fun t => t.push (pushedBySoftware t.p)) s

/-- PLA (R222). -/
def execPla (s : State) : Result := complete 1 4 (fun t => t.pull.2.loadA t.pull.1) s

/-- PLP (R223). -/
def execPlp (s : State) : Result := complete 1 4 (fun t => t.pull.2.withP (loadedStatus t.pull.1)) s

/-- CLC (R224). -/
def execClc (s : State) : Result := complete 1 2 (fun t => t.setFlag .c false) s

/-- SEC (R225). -/
def execSec (s : State) : Result := complete 1 2 (fun t => t.setFlag .c true) s

/-- CLI (R226). -/
def execCli (s : State) : Result := complete 1 2 (fun t => t.setFlag .i false) s

/-- SEI (R227). -/
def execSei (s : State) : Result := complete 1 2 (fun t => t.setFlag .i true) s

/-- CLD (R228). -/
def execCld (s : State) : Result := complete 1 2 (fun t => t.setFlag .d false) s

/-- SED (R229). -/
def execSed (s : State) : Result := complete 1 2 (fun t => t.setFlag .d true) s

/-- CLV (R230). -/
def execClv (s : State) : Result := complete 1 2 (fun t => t.setFlag .v false) s

/-- NOP (R231). -/
def execNop (s : State) : Result := complete 1 2 (fun t => t) s

/-- BRK (R232): skips one padding byte, then takes the software trap through the IRQ vector. -/
def execBrk (s : State) : Result :=
  complete 1 7 (fun t => t.trapEntry (t.pc + 1) (pushedBySoftware t.p) t.cfg.irqVector) s

/-- RTI (R233). -/
def execRti (s : State) : Result := complete 1 6 (fun t => t.trapReturn) s

/-- An undefined opcode (R234): one byte, no effect but PC and cycles, whichever of the 105 bytes it is. -/
def execUnd (_ : Byte) (s : State) : Result := complete 1 s.cfg.undefCycles (fun t => t) s

end Sys2Proof.Machine
end

