-- ==== Sys2Proof/Machine/Fetch.lean ====
section
/-! DEFINITION. Fetching an instruction's bytes (spec 30_encoding.md R111), and its opposite for the
host's question: placing an instruction's bytes where the next fetch reads them. -/

namespace Sys2Proof.Machine

/-- The instruction at PC. Three bytes are read on the bus, of which the decoder uses as many as the
opcode asks for; a read has no side effect (20_memory.md R70; log entry 6). -/
def State.fetch (s : State) : Instr := decodeOp (s.read s.pc) (s.read (s.pc + 1)) (s.read (s.pc + 2))

/-- The three bytes at PC, as a list. -/
def State.fetchBytes (s : State) : List Byte := [s.read s.pc, s.read (s.pc + 1), s.read (s.pc + 2)]

/-- Puts a byte into whichever store backs an address now, so that a read of the address gives it (but
at the raster readback, whose value is computed). -/
def State.place (s : State) (a : Word) (v : Byte) : State :=
  match s.store a with
  | .romExt => s.withRoms { s.roms with ext := Memory.write s.roms.ext (a.toNat - 0xA000) v }
  | .romSys => s.withRoms { s.roms with sys := Memory.write s.roms.sys (a.toNat - 0xE000) v }
  | .romGlyph => s.withRoms { s.roms with glyph := Memory.write s.roms.glyph (a.toNat - 0xD000) v }
  | .peripherals => s.setRam a v
  | .ram => s.setRam a v

/-- Places three bytes at PC, the last first: a byte that lands on the bank-select register is then in
force when the bytes before it are placed. -/
def State.placeAtPc (s : State) (b0 b1 b2 : Byte) : State :=
  ((s.place (s.pc + 2) b2).place (s.pc + 1) b1).place s.pc b0

end Sys2Proof.Machine
end

