-- ==== Sys2Proof/Machine/Step.lean ====
section
/-! DEFINITION. One step of the processor: `Step()` of spec 30_encoding.md R111. -/

namespace Sys2Proof.Machine

/-- Fetches the instruction at PC and performs it. Every byte decodes, so a step never refuses. -/
def step (s : State) : Host.Outcome State Fault Refusal := exec s.fetch s

/-- The host's question: `s` with the instruction whose bits are `w` (`nbits` of them, the first byte
least significant, zeros above) stored where the next step fetches it. -/
def State.withFetchWord (s : State) (nbits w : Nat) : State :=
  let v := w % 2 ^ nbits
  s.placeAtPc (byteOf v 0) (byteOf v 1) (byteOf v 2)

end Sys2Proof.Machine
end

