-- ==== Sys2Proof/Machine/Keyboard.lean ====
section
/-! DEFINITION. The keyboard FIFO and the host's key codes (spec 60_exceptions.md R284–R288). -/

namespace Sys2Proof.Machine

/-- The capacity of the keyboard FIFO (R284, 00_scope.md R6). -/
def keyCapacity : Nat := 10

/-- `InjectKey(code)` (R285): stored behind the pending codes, or dropped at ten or more. The RAM array is
written directly. -/
def State.injectKey (s : State) (code : Byte) : State :=
  let n := s.ram s.cfg.keyCountAddr
  if n.toNat < keyCapacity then
    (s.setRam (s.cfg.keyBufAddr + zext n) code).setRam s.cfg.keyCountAddr (n + 1)
  else s

/-- The keys the host maps (R287). -/
inductive Key where
  /-- A key that types a single character; only a printable one has a code. -/
  | char (c : Char)
  | enter
  | backspace
  | arrowLeft
  | arrowRight
  | arrowUp
  | arrowDown
  /-- Any other key. -/
  | unmapped
  deriving DecidableEq, Repr

/-- The code points of control characters below 256, which no printable character has (log entry 9). -/
abbrev isControl (n : Nat) : Prop := n < 0x20 ∨ (0x7F ≤ n ∧ n ≤ 0x9F)

/-- The lowercase letters below 256 whose uppercase letter stands 0x20 below them: a to z, and à to þ but
for the division sign (log entry 9). -/
abbrev isLower (n : Nat) : Prop := (0x61 ≤ n ∧ n ≤ 0x7A) ∨ (0xE0 ≤ n ∧ n ≤ 0xFE ∧ n ≠ 0xF7)

/-- The code points below 256 whose code the spec leaves open: the soft hyphen (printable or not), and µ, ß
and ÿ, whose uppercase forms are not one code point below 256 (log entry 9). -/
abbrev isOpen (n : Nat) : Prop := n = 0xAD ∨ n = 0xB5 ∨ n = 0xDF ∨ n = 0xFF

/-- The code of the character with code point `n` (R287): its uppercase code point; none for a control
character; a free value where its uppercase form is not one code point below 256. Of the characters from
256 on, two have their uppercase letter below: dotless i and long s. -/
def charCode (n : Nat) : Option Byte :=
  if isControl n then none
  else if isOpen n then Config.openKeyCode n
  else if isLower n then some (BitVec.ofNat 8 (n - 0x20))
  else if n < 256 then some (BitVec.ofNat 8 n)
  else if n = 0x131 then some 0x49
  else if n = 0x17F then some 0x53
  else Config.openKeyCode n

/-- The code of a key (R287); none for a key that produces no injection. -/
def Key.code : Key → Option Byte
  | .char c => charCode c.toNat
  | .enter => some 13
  | .backspace => some 20
  | .arrowLeft => some 157
  | .arrowRight => some 29
  | .arrowUp => some 145
  | .arrowDown => some 17
  | .unmapped => none

/-- The host's handling of a key press (R287). -/
def State.pressKey (s : State) (k : Key) : State :=
  match k.code with
  | some code => s.injectKey code
  | none => s

/-- Injected text: each character in turn, a line feed as the Enter key (R287); a control character, being
no printable one, injects nothing. -/
def State.typeText (s : State) (text : List Char) : State :=
  text.foldl (fun t c => t.pressKey (if c = '\n' then .enter else .char c)) s

end Sys2Proof.Machine
end

