-- ==== Sys2Proof/Machine/Scheduler.lean ====
section
/-! DEFINITION. Interrupt entry, the interrupt request, the break request and the frame scheduler (spec
60_exceptions.md R262–R275). -/

namespace Sys2Proof.Machine

/-- `IntEntry(vector, b)` (R263): the trap entry at the current PC, with Break = `b` in the pushed
status, its cycles added and deducted from the budget. -/
def State.intEntry (s : State) (vector : Word) (b : Bool) : State :=
  let t := s.trapEntry s.pc (pushedByInterrupt s.p b) vector
  (t.withCycles (t.cycles + t.cfg.intEntryCycles)).withBalance (t.balance - t.cfg.intEntryCycles)

/-- `Irq()` (R262): lost, not remembered, while I is set. -/
def State.irq (s : State) : State :=
  if s.flag .i then s else s.intEntry s.cfg.irqVector false

/-- `ForceBreak()` (R266): whatever I is. -/
def State.forceBreak (s : State) : State := s.intEntry s.cfg.forceBreakVector s.cfg.forceBreakB

/-- The loop of `Execute` (R272) with `n` instructions left before the valve: each step's cycles are
deducted from the balance, until it is not positive. -/
def runFrame : Nat → State → Result
  | 0, s => .next s
  | n + 1, s =>
    if 0 < s.balance then
      match step s with
      | .next t => runFrame n (t.withBalance (t.balance - ((t.cycles : Int) - s.cycles)))
      | .fault r => .fault r
      | .refused r => .refused r
    else .next s

/-- A positive balance left by a valve hit is dropped (R272, D30). -/
def State.dropRemainder (s : State) : State := if 0 < s.balance then s.withBalance 0 else s

/-- `Execute(budget)` (R271, R272). -/
def execute (budget : Nat) (s : State) : Result :=
  match runFrame s.cfg.valve (s.withBalance (s.balance + budget)) with
  | .next t => .next t.dropRemainder
  | .fault r => .fault r
  | .refused r => .refused r

/-- `Tick()` (R275) without its output: a frame's execution, the one interrupt request, the tick count. -/
def tick (s : State) : Result :=
  match execute s.cfg.cyclesPerFrame s with
  | .next t => .next (t.irq.withTicks (t.irq.ticks + 1))
  | .fault r => .fault r
  | .refused r => .refused r

end Sys2Proof.Machine
end

