-- ==== Sys2Proof/Machine/Video.lean ====
section
/-! DEFINITION. The character-mode video compositor (spec 60_exceptions.md R290–R300): a pure function
of the RAM array, the glyph ROM and the configuration. -/

namespace Sys2Proof.Machine

/-- A drawing surface: the colour at row `y`, column `x`. It is a value of the compositor, no state. -/
abbrev Canvas := Nat → Nat → Rgb

/-- `buf[y][x] <- colour`. -/
def plot (buf : Canvas) (y x : Nat) (colour : Rgb) : Canvas :=
  fun y' x' => if y' = y ∧ x' = x then colour else buf y' x'

/-- Fills the rectangle of `h` rows and `w` columns whose top-left corner is row `y0`, column `x0`. -/
def fillRect (buf : Canvas) (y0 x0 h w : Nat) (colour : Rgb) : Canvas :=
  fun y x => if y0 ≤ y ∧ y < y0 + h ∧ x0 ≤ x ∧ x < x0 + w then colour else buf y x

/-- The palette colour a byte selects with its low four bits (R295, D42). -/
def State.colour (s : State) (v : Byte) : Rgb := s.cfg.palette[v.toNat % 16]'(Nat.mod_lt _ (by decide))

/-- The border colour (R295). -/
def State.borderColour (s : State) : Rgb := s.colour (s.ram s.cfg.borderReg)

/-- The background colour (R295). -/
def State.backgroundColour (s : State) : Rgb := s.colour (s.ram s.cfg.backgroundReg)

/-- The character code of text cell `i` (R296). -/
def State.cellCode (s : State) (i : Nat) : Byte := s.ram (s.cfg.screenBase + BitVec.ofNat 16 i)

/-- The foreground colour of text cell `i` (R296). -/
def State.cellColour (s : State) (i : Nat) : Rgb := s.colour (s.ram (s.cfg.colorBase + BitVec.ofNat 16 i))

/-- Row `r` of the glyph of a character code (R297). -/
def State.glyphRow (s : State) (code : Byte) (r : Nat) : Byte := Memory.read s.roms.glyph (code.toNat * 8 + r)

/-- Draws pixel `c` of row `r` of the cell at `row`, `col`: the foreground colour where the glyph's bit,
bit 7 leftmost, is 1 (R295, R297). -/
def State.drawPixel (s : State) (row col r : Nat) (buf : Canvas) (c : Nat) : Canvas :=
  let i := row * 40 + col
  if (s.glyphRow (s.cellCode i) r).getLsbD (7 - c) then
    plot buf (s.cfg.innerY0 + row * 8 + r) (s.cfg.innerX0 + col * 8 + c) (s.cellColour i)
  else buf

/-- Draws the cell at `row`, `col`: its eight rows of eight pixels. -/
def State.drawCell (s : State) (row : Nat) (buf : Canvas) (col : Nat) : Canvas :=
  (List.range 8).foldl (fun b r => (List.range 8).foldl (s.drawPixel row col r) b) buf

/-- Draws the 40 cells of text row `row`. -/
def State.drawRow (s : State) (buf : Canvas) (row : Nat) : Canvas :=
  (List.range 40).foldl (s.drawCell row) buf

/-- The drawing of `Render()` in the spec's order (R295): border, background, then the 25 text rows. -/
def State.drawing (s : State) : Canvas :=
  let border : Canvas := fun _ _ => s.borderColour
  let inner := fillRect border s.cfg.innerY0 s.cfg.innerX0 200 320 s.backgroundColour
  (List.range 25).foldl s.drawRow inner

/-- One pixel in closed form: what `State.drawing` leaves at row `y`, column `x`
(`Obligations.DrawingIsThePixelFunction`). -/
def State.pixel (s : State) (y x : Nat) : Rgb :=
  if s.cfg.innerY0 ≤ y ∧ y < s.cfg.innerY0 + 200 ∧ s.cfg.innerX0 ≤ x ∧ x < s.cfg.innerX0 + 320 then
    let row := (y - s.cfg.innerY0) / 8
    let col := (x - s.cfg.innerX0) / 8
    let i := row * 40 + col
    let bits := s.glyphRow (s.cellCode i) ((y - s.cfg.innerY0) % 8)
    if bits.getLsbD (7 - (x - s.cfg.innerX0) % 8) then s.cellColour i else s.backgroundColour
  else s.borderColour

/-- A pixel buffer, `buf[y][x]`: `DISPLAY_H` rows of `DISPLAY_W` colours (R291). -/
abbrev PixelBuffer := List (List Rgb)

/-- `Render()` (R290, R295): the drawing on the buffer's rows and columns. -/
def State.render (s : State) : PixelBuffer :=
  (List.range s.cfg.displayH).map fun y => (List.range s.cfg.displayW).map fun x => s.drawing y x

end Sys2Proof.Machine
end

