-- ==== Sys2Proof/Machine/HostEvents.lean ====
section
/-! DEFINITION. The host's events (spec 00_scope.md R9): Construct, Reset, Snapshot, Restore
(70_reset_and_hazards.md), and the application of any event to a machine. Every event maps a state to a
state, so none lands inside a tick (R336). -/

namespace Sys2Proof.Machine

/-- The registers and vector fetch of `Reset()` (70 R322), the RAM being already in place. -/
def State.resetRegisters (s : State) : State :=
  let t := ((((s.withA 0x00).withX 0x00).withY 0x00).withSp s.cfg.spReset).withP 0x20
  t.withPc (t.read16 t.cfg.resetVector)

/-- `Reset()` (R322): RAM defaults first, then the registers, then PC through the bus. Every RAM byte the
defaults leave out is unspecified afterwards (10_state.md R45): `fresh` says which bytes it holds. -/
def State.hostReset (s : State) (fresh : List (Word × Byte)) : State :=
  (s.withMem (Memory.writeAll (Memory.writeAll [] fresh) s.cfg.ramDefaults)).resetRegisters

/-- The host's three ROM images, byte by byte (00_scope.md R8). -/
structure RomImages where
  ext : List Byte
  sys : List Byte
  glyph : List Byte
  deriving DecidableEq, Repr

/-- The images have the lengths of R8. -/
def RomImages.lengthsOk (r : RomImages) : Bool :=
  r.ext.length == 8192 && r.sys.length == 8192 && r.glyph.length == 4096

/-- `Construct` (R320, D44, D45) of a machine of configuration `cfg`: refused for an image of another
length; else the counters at zero, RAM as `ram` says (unspecified by the spec, R45), then the reset
sequence. -/
def construct (cfg : Config) (images : RomImages) (ram : List (Word × Byte)) : Result :=
  if images.lengthsOk then
    let roms : Roms := ⟨Memory.ofBytes 0 images.ext, Memory.ofBytes 0 images.sys, Memory.ofBytes 0 images.glyph⟩
    let blank : State :=
      { a := 0, x := 0, y := 0, sp := 0, p := 0, pc := 0, mem := [], cycles := 0, balance := 0, ticks := 0,
        roms := roms, cfg := cfg }
    .next (blank.hostReset ram)
  else .refused .romImageLength

/-- The content of a snapshot (R330): RAM, the registers, the tick count; nothing else (C4). -/
structure Snapshot where
  ram : List Byte
  a : Byte
  x : Byte
  y : Byte
  sp : Byte
  p : Byte
  pc : Word
  ticks : Nat
  deriving DecidableEq, Repr

/-- The size of RAM in bytes (00_scope.md R6). -/
def ramSize : Nat := 65536

/-- `Snapshot()` (R330). -/
def State.snapshot (s : State) : Snapshot where
  ram := (List.range ramSize).map (Memory.read s.mem)
  a := s.a
  x := s.x
  y := s.y
  sp := s.sp
  p := s.p
  pc := s.pc
  ticks := s.ticks

/-- `Restore(s)` (R331): all or nothing, and whether it succeeded. Fails on a missing payload or one whose
RAM has not 65536 bytes. Bits 4 and 5 of the restored `P` are normalised (D35; log entry 7). -/
def State.restore (s : State) (payload : Option Snapshot) : State × Bool :=
  match payload with
  | none => (s, false)
  | some k =>
    if k.ram.length = ramSize then
      ({ s with mem := Memory.ofBytes 0 k.ram, a := k.a, x := k.x, y := k.y, sp := k.sp,
                p := loadedStatus k.p, pc := k.pc, ticks := k.ticks }, true)
    else (s, false)

/-- The events the host applies to a machine (R9). -/
inductive Event where
  /-- Reset, with the RAM bytes it leaves unspecified. -/
  | reset (fresh : List (Word × Byte))
  | tick
  | forceBreak
  | injectKey (code : Byte)
  | snapshot
  | restore (payload : Option Snapshot)
  deriving DecidableEq, Repr

/-- What an event hands to the host (R9). -/
inductive Output where
  | nothing
  /-- The pixel buffer of an even tick. -/
  | pixels (buffer : PixelBuffer)
  | snapshot (value : Snapshot)
  /-- Whether a restore succeeded. -/
  | restored (ok : Bool)
  deriving DecidableEq, Repr

/-- The output of a tick that ended in `t`: on even counts, the rendered buffer (60 R275, R300). -/
def tickOutput (t : State) : Output := if t.ticks % 2 = 0 then .pixels t.render else .nothing

/-- Applies one event (R9, R336). -/
def applyEvent (e : Event) (s : State) : Host.Outcome (State × Output) Fault Refusal :=
  match e with
  | .reset fresh => .next (s.hostReset fresh, .nothing)
  | .tick =>
    match tick s with
    | .next t => .next (t, tickOutput t)
    | .fault r => .fault r
    | .refused r => .refused r
  | .forceBreak => .next (s.forceBreak, .nothing)
  | .injectKey code => .next (s.injectKey code, .nothing)
  | .snapshot => .next (s, .snapshot s.snapshot)
  | .restore payload => .next ((s.restore payload).1, .restored (s.restore payload).2)

/-- A run (R327): a sequence of events, with the outputs on the way. -/
def runEvents : List Event → State → Host.Outcome (State × List Output) Fault Refusal
  | [], s => .next (s, [])
  | e :: rest, s =>
    match applyEvent e s with
    | .next r =>
      match runEvents rest r.1 with
      | .next u => .next (u.1, r.2 :: u.2)
      | .fault f => .fault f
      | .refused f => .refused f
    | .fault f => .fault f
    | .refused f => .refused f

end Sys2Proof.Machine
end

