-- ==== Sys2Proof/Safety.lean ====
section
/-! DEFINITION. The terms claims are stated in: the machine's invariant, what an instruction leaves
unchanged, and the spec's cycle table. -/

namespace Sys2Proof.Machine

/-- The invariant of every state the machine can be in: RAM and the three ROM images are in canonical
form and of their sizes (00_scope.md R6), and the register P keeps U = 1 and B = 0 (10_state.md R31). -/
abbrev State.Inv (s : State) : Prop :=
  Memory.wf 65536 s.mem = true ∧ Memory.wf 8192 s.roms.ext = true ∧ Memory.wf 8192 s.roms.sys = true ∧
    Memory.wf 4096 s.roms.glyph = true ∧ s.flag .u = true ∧ s.flag .b = false

/-- The byte registers but P. -/
inductive Reg where
  | a | x | y | sp
  deriving DecidableEq, Repr

/-- A register's value. -/
def State.reg (s : State) : Reg → Byte
  | .a => s.a
  | .x => s.x
  | .y => s.y
  | .sp => s.sp

/-- Going from `s` to `t` changed no register outside `regs`, no flag outside `flags`, no RAM byte outside
`stored`, and nothing of the scheduler's and the host's: balance, ticks, ROM images, configuration. The
program counter and the cycle count are left open. -/
def Frame (s t : State) (regs : List Reg) (flags : List Flag) (stored : Word → Prop) : Prop :=
  (∀ r, r ∉ regs → t.reg r = s.reg r) ∧ (∀ f, f ∉ flags → t.flag f = s.flag f) ∧
    (∀ a, ¬ stored a → t.ram a = s.ram a) ∧
    t.balance = s.balance ∧ t.ticks = s.ticks ∧ t.roms = s.roms ∧ t.cfg = s.cfg

/-- No RAM byte is stored to. -/
def noStore : Word → Prop := fun _ => False

/-- PC and cycles after an instruction of the given length and cost that does not jump. -/
def PassedBy (s t : State) (length cost : Nat) : Prop :=
  t.pc = s.pc + BitVec.ofNat 16 length ∧ t.cycles = s.cycles + cost

/-- N and Z are those of the 8-bit result `v` (R28). -/
def ShowsNZ (t : State) (v : Byte) : Prop := t.flag .z = (v == 0) ∧ t.flag .n = v.getLsbD 7

/-- The instruction completes, in a state of which `post` holds. -/
def Completes (i : Instr) (s : State) (post : State → Prop) : Prop := ∃ t, exec i s = .next t ∧ post t

/-- The whole stack page lies in 0x0000–0x9FFF, plain RAM under every bank view (20_memory.md R66), as it does
with the default `STACK_BASE` (10_state.md R24). -/
abbrev State.StackPlain (s : State) : Prop := s.cfg.stackBase.toNat ≤ 0x9F00

/-- The base cycles of the 256 opcodes as spec 30_encoding.md R130 prints them, row by row; none for an
undefined opcode. -/
def opcodeCycleTable : List (Option Nat) :=
  [some 7, some 6, none, none, none, some 3, some 5, none, some 3, some 2, some 2, none, none, some 4, some 6, none] ++
   [some 2, some 5, none, none, none, some 4, some 6, none, some 2, some 4, none, none, none, some 4, some 7, none] ++
   [some 6, some 6, none, none, some 3, some 3, some 5, none, some 4, some 2, some 2, none, some 4, some 4, some 6, none] ++
   [some 2, some 5, none, none, none, some 4, some 6, none, some 2, some 4, none, none, none, some 4, some 7, none] ++
   [some 6, some 6, none, none, none, some 3, some 5, none, some 3, some 2, some 2, none, some 3, some 4, some 6, none] ++
   [some 2, some 5, none, none, none, some 4, some 6, none, some 2, some 4, none, none, none, some 4, some 7, none] ++
   [some 6, some 6, none, none, none, some 3, some 5, none, some 4, some 2, some 2, none, some 5, some 4, some 6, none] ++
   [some 2, some 5, none, none, none, some 4, some 6, none, some 2, some 4, none, none, none, some 4, some 7, none] ++
   [none, some 6, none, none, some 3, some 3, some 3, none, some 2, none, some 2, none, some 4, some 4, some 4, none] ++
   [some 2, some 6, none, none, some 4, some 4, some 4, none, some 2, some 5, some 2, none, none, some 5, none, none] ++
   [some 2, some 6, some 2, none, some 3, some 3, some 3, none, some 2, some 2, some 2, none, some 4, some 4, some 4, none] ++
   [some 2, some 5, none, none, some 4, some 4, some 4, none, some 2, some 4, some 2, none, some 4, some 4, some 4, none] ++
   [some 2, some 6, none, none, some 3, some 3, some 5, none, some 2, some 2, some 2, none, some 4, some 4, some 6, none] ++
   [some 2, some 5, none, none, none, some 4, some 6, none, some 2, some 4, none, none, none, some 4, some 7, none] ++
   [some 2, some 6, none, none, some 3, some 3, some 5, none, some 2, some 2, some 2, none, some 4, some 4, some 6, none] ++
   [some 2, some 5, none, none, none, some 4, some 6, none, some 2, some 4, none, none, none, some 4, some 7, none]

end Sys2Proof.Machine
end

