-- ==== Sys2Proof/Certificates/Slice0/Obligations.lean ====
section
/-! DEFINITION. The statements for the provers. Each docstring names the rules of spec/ it formalises. -/

open Sys2Proof Sys2Proof.Machine

/-! ## Encoding and the step -/

/-- R110, R112, R131: an encoded well-formed instruction, whatever bytes follow it, decodes to itself and
leaves those bytes, and its encoding has the length of its mode. -/
def Obligations.DecodeInvertsEncode : Prop :=
  ∀ (i : Instr) (rest : List Byte), i.wf = true →
    ∃ bytes, encode i = some bytes ∧ bytes.length = i.length ∧ decode (bytes ++ rest) = .ok (i, rest)

/-- R110, R111: every three bytes begin with a well-formed instruction, and its encoding is the bytes it
was read from, so no operand bit is dropped and no two byte strings are confused. -/
def Obligations.EveryByteStringDecodes : Prop :=
  ∀ op b1 b2 : Byte,
    (decodeOp op b1 b2).wf = true ∧
      encode (decodeOp op b1 b2) = some ([op, b1, b2].take (decodeOp op b1 b2).length)

/-- R132: the opcode bytes that decode to an undefined opcode are exactly the 105 listed, each of length 1,
and the other 151 bytes have an entry. -/
def Obligations.UndefinedOpcodesAreTheListed : Prop :=
  undefinedOpcodes.length = 105 ∧ undefinedOpcodes.Nodup ∧
    ∀ op b1 b2 : Byte,
      (op ∈ undefinedOpcodes → decodeOp op b1 b2 = .und op) ∧
      (op ∉ undefinedOpcodes → ∀ c, decodeOp op b1 b2 ≠ .und c) ∧
      (Instr.und op).length = 1

/-- R130: the base cost of each of the 256 opcodes is the number the table prints for it, UNDEF_CYCLES for
an undefined one. -/
def Obligations.OpcodeCyclesAreTheTable : Prop :=
  opcodeCycleTable.length = 256 ∧
    ∀ (cfg : Config) (op b1 b2 : Byte),
      baseCycles cfg (decodeOp op b1 b2) = (opcodeCycleTable.getD op.toNat none).getD cfg.undefCycles

/-- R113: an instruction adds its base cost to the cycle count, and nothing more unless it is a branch,
which adds at most 2. -/
def Obligations.InstructionsCostTheirBaseCycles : Prop :=
  ∀ (i : Instr) (s t : State), exec i s = .next t →
    ∃ extra, t.cycles = s.cycles + baseCycles s.cfg i + extra ∧ extra ≤ 2 ∧ (i.mode ≠ .rel → extra = 0)

/-- A few words written out from R130 and R110, one or more of each family, decode to the instructions they
stand for. -/
def Obligations.SampleWordsDecode : Prop :=
  decode [0xA9, 0x80] = .ok (.lda (.imm 0x80), []) ∧
  decode [0x8D, 0x00, 0x04] = .ok (.sta (.abs 0x0400), []) ∧
  decode [0x71, 0x20, 0xEA] = .ok (.adc (.mem (.izy 0x20)), [0xEA]) ∧
  decode [0xFE, 0x34, 0x12] = .ok (.inc (.abx 0x1234), []) ∧
  decode [0x6A] = .ok (.ror .acc, []) ∧
  decode [0xD0, 0xFE] = .ok (.bne 0xFE, []) ∧
  decode [0x6C, 0x14, 0x03] = .ok (.jmp (.ind 0x0314), []) ∧
  decode [0x00] = .ok (.brk, []) ∧
  decode [0x89, 0x10] = .ok (.und 0x89, [0x10])

/-- R111: a step performs the instruction that the bytes at PC decode to, and nothing around it; and the
bytes at PC always decode, to a well-formed instruction. -/
def Obligations.StepRunsTheDecodedInstruction : Prop :=
  ∀ s : State,
    (∀ i rest, decode s.fetchBytes = .ok (i, rest) → step s = exec i s) ∧
      ∃ i rest, decode s.fetchBytes = .ok (i, rest) ∧ i.wf = true

/-- R111, R260, 93 U1: a step always completes, from every state; it never faults and never refuses. It
leaves the balance, the ticks, the ROM images and the configuration alone, and spends at least two cycles
where UNDEF_CYCLES is at least two (R273). -/
def Obligations.EveryStepCompletes : Prop :=
  ∀ s : State, ∃ t, step s = .next t ∧ t.balance = s.balance ∧ t.ticks = s.ticks ∧ t.roms = s.roms ∧
    t.cfg = s.cfg ∧ (2 ≤ s.cfg.undefCycles → s.cycles + 2 ≤ t.cycles)

/-! ## Reset and the invariant -/

/-- R320, R25, R27, R47: construction with images of the right lengths succeeds, with those images, the
registers and counters of R47 and PC read from the system ROM's last bytes, whatever RAM holds; with an
image of another length it is refused. -/
def Obligations.ConstructLeavesTheResetState : Prop :=
  ∀ (images : RomImages) (ram : List (Word × Byte)),
    (images.ext.length = 8192 ∧ images.sys.length = 8192 ∧ images.glyph.length = 4096 →
      ∃ t, construct Config.default images ram = .next t ∧
        t.a = 0x00 ∧ t.x = 0x00 ∧ t.y = 0x00 ∧ t.sp = 0x00 ∧ t.p = 0x20 ∧
        t.pc = join (images.sys.getD 0x1FFD 0) (images.sys.getD 0x1FFC 0) ∧
        t.ram 0x0000 = 0x2F ∧ t.ram 0x0001 = 0x37 ∧
        t.cycles = 0 ∧ t.balance = 0 ∧ t.ticks = 0 ∧ t.cfg = Config.default ∧
        ∀ k, Memory.read t.roms.ext k = images.ext.getD k 0 ∧ Memory.read t.roms.sys k = images.sys.getD k 0 ∧
          Memory.read t.roms.glyph k = images.glyph.getD k 0) ∧
    (images.ext.length ≠ 8192 ∨ images.sys.length ≠ 8192 ∨ images.glyph.length ≠ 4096 →
      construct Config.default images ram = .refused .romImageLength)

/-- The model's reset state (log entries 1 and 2: all-zero ROM images and zero for unspecified RAM, the
model's choice) is the machine that Construct makes of such images. -/
def Obligations.ModelResetIsConstructed : Prop :=
  construct Config.default
    ⟨List.replicate 8192 0, List.replicate 8192 0, List.replicate 4096 0⟩ [] = .next State.reset

/-- R322, R324: the Reset event on any machine zeroes A, X and Y, sets SP to SP_RESET and P to 0x20, loads
PC from the vector as the machine then reads it, writes the RAM defaults, and leaves cycles, balance,
ticks and the ROM images. -/
def Obligations.HostResetEffect : Prop :=
  ∀ (s : State) (fresh : List (Word × Byte)),
    let t := s.hostReset fresh
    t.a = 0x00 ∧ t.x = 0x00 ∧ t.y = 0x00 ∧ t.sp = s.cfg.spReset ∧ t.p = 0x20 ∧
      t.pc = t.read16 s.cfg.resetVector ∧
      t.cycles = s.cycles ∧ t.balance = s.balance ∧ t.ticks = s.ticks ∧ t.roms = s.roms ∧ t.cfg = s.cfg ∧
      (s.cfg = Config.default →
        t.ram 0x0000 = 0x2F ∧ t.ram 0x0001 = 0x37 ∧
        t.pc = join (Memory.read s.roms.sys 0x1FFD) (Memory.read s.roms.sys 0x1FFC))

/-- R31 at reset: the invariant holds of the reset state. -/
def Obligations.ResetMeetsTheInvariant : Prop := State.reset.Inv

/-- R31, R6: every step from a state that meets the invariant leads to one that does: RAM stays canonical,
and P keeps U = 1 and B = 0. -/
def Obligations.StepKeepsTheInvariant : Prop :=
  ∀ s t : State, s.Inv → step s = .next t → t.Inv

/-- R31 for the step, reset and the interrupts, R321 for the ROM images: every host event (reset, a whole tick,
break, key, snapshot, restore) keeps the invariant, and none changes the ROM images or the configuration.
That a restore of ANY payload keeps U = 1 and B = 0 is the model's choice (log entry 7, DESIGN CHOICE): the
model normalises P, one of the two ways R331 and D35 name; by R331 itself R31's invariant holds after a
restore only if the stored P has it. -/
def Obligations.EventsKeepTheInvariant : Prop :=
  ∀ (e : Event) (s t : State) (out : Output), applyEvent e s = .next (t, out) →
    t.roms = s.roms ∧ t.cfg = s.cfg ∧ (s.Inv → t.Inv)

/-! ## The bus -/

/-- R66, R67: with the default bank table, a bus read in terms of the three low bits of RAM[1]: the extended
ROM, the system ROM, the glyph ROM, the peripherals or RAM, exactly one for each address. The raster clause is
the formula of R76, the spec's (D19), which 93 U7 advises proofs to leave open (log entry 4). -/
def Obligations.ReadsFollowTheBankBits : Prop :=
  ∀ (s : State) (a : Word), s.cfg = Config.default →
    let loram := (s.ram 0x0001).getLsbD 0
    let hiram := (s.ram 0x0001).getLsbD 1
    let charen := (s.ram 0x0001).getLsbD 2
    s.read a =
      if 0xA000 ≤ a.toNat ∧ a.toNat ≤ 0xBFFF ∧ loram ∧ hiram then Memory.read s.roms.ext (a.toNat - 0xA000)
      else if 0xE000 ≤ a.toNat ∧ hiram then Memory.read s.roms.sys (a.toNat - 0xE000)
      else if 0xD000 ≤ a.toNat ∧ a.toNat ≤ 0xDFFF ∧ (loram ∨ hiram) ∧ charen = false then
        Memory.read s.roms.glyph (a.toNat - 0xD000)
      else if a.toNat = 0xD012 ∧ (loram ∨ hiram) then BitVec.ofNat 8 (s.cycles / 63 % 312)
      else s.ram a

/-- R68, R77, R78, R73: with the default bank table, the RAM byte at any address after a bus write: unchanged
where a ROM is visible, cleared bits at the interrupt-status address and four bits in colour RAM while
the peripherals are visible, else the byte written; and no register changes. That the visible glyph ROM counts
as a ROM-shadowed range is the spec's own inference, marked "[derived: ...]" in R68, which its pseudocode
agrees with. -/
def Obligations.WritesFollowTheBankBits : Prop :=
  ∀ (s : State) (a b : Word) (v : Byte), s.cfg = Config.default →
    let loram := (s.ram 0x0001).getLsbD 0
    let hiram := (s.ram 0x0001).getLsbD 1
    let charen := (s.ram 0x0001).getLsbD 2
    (s.write a v).ram b =
        (if b ≠ a then s.ram b
         else if 0xA000 ≤ a.toNat ∧ a.toNat ≤ 0xBFFF ∧ loram ∧ hiram then s.ram a
         else if 0xE000 ≤ a.toNat ∧ hiram then s.ram a
         else if 0xD000 ≤ a.toNat ∧ a.toNat ≤ 0xDFFF ∧ (loram ∨ hiram) ∧ charen = false then s.ram a
         else if a.toNat = 0xD019 ∧ (loram ∨ hiram) then s.ram a &&& ~~~v
         else if 0xD800 ≤ a.toNat ∧ a.toNat ≤ 0xDBFF ∧ (loram ∨ hiram) then v &&& 0x0F
         else v) ∧
      Frame s (s.write a v) [] [] (fun c => c = a) ∧
      (s.write a v).pc = s.pc ∧ (s.write a v).cycles = s.cycles

/-- R68: a write to an address that a ROM shadows changes no state at all; R68 and R82: a write to a plain RAM
address is what the next read of it gives, and leaves every other RAM byte. Under any configuration. That
the visible glyph ROM counts as a ROM-shadowed range is the spec's own inference, marked "[derived: ...]" in
R68, which its pseudocode agrees with. -/
def Obligations.ReadAfterWrite : Prop :=
  ∀ (s : State) (a : Word) (v : Byte),
    (s.store a = .romExt ∨ s.store a = .romSys ∨ s.store a = .romGlyph → s.write a v = s) ∧
    (s.store a = .ram → (s.write a v).read a = v ∧ ∀ b, b ≠ a → (s.write a v).ram b = s.ram b)

/-- R24: with the stack page in plain RAM, as by default, a push stores at STACK_BASE + SP and decrements SP
modulo 256, a pull increments it first and reads there, and a pull after a push gives the byte back and SP
as it was. -/
def Obligations.StackWrapsInItsPage : Prop :=
  ∀ (s : State) (v : Byte), s.StackPlain →
    (s.push v).sp = s.sp - 1 ∧
    (∀ a, (s.push v).ram a = if a.toNat = s.cfg.stackBase.toNat + s.sp.toNat then v else s.ram a) ∧
    s.pull.1 = s.ram (BitVec.ofNat 16 (s.cfg.stackBase.toNat + (s.sp.toNat + 1) % 256)) ∧
    s.pull.2.sp = s.sp + 1 ∧
    (s.push v).pull.1 = v ∧ (s.push v).pull.2.sp = s.sp

/-! ## Addressing modes -/

/-- R117, R118, R119, R120, R121, R122: the effective addresses without a pointer, as numbers: zero-page sums
wrap modulo 256, absolute sums modulo 65536. -/
def Obligations.DirectEffectiveAddresses : Prop :=
  ∀ (s : State) (b : Byte) (w : Word),
    (s.ea (.zp b)).toNat = b.toNat ∧
    (s.ea (.zpx b)).toNat = (b.toNat + s.x.toNat) % 256 ∧
    (s.ea (.zpy b)).toNat = (b.toNat + s.y.toNat) % 256 ∧
    (s.ea (.abs w)).toNat = w.toNat ∧
    (s.ea (.abx w)).toNat = (w.toNat + s.x.toNat) % 65536 ∧
    (s.ea (.aby w)).toNat = (w.toNat + s.y.toNat) % 65536

/-- R124, R125: the effective addresses through a zero-page pointer: both pointer bytes come from RAM's page
zero, the second wrapping to 0x0000, low byte first; Y is added after, modulo 65536. -/
def Obligations.PointerEffectiveAddresses : Prop :=
  ∀ (s : State) (b : Byte),
    let pointer := fun n : Nat =>
      (s.ram (BitVec.ofNat 16 (n % 256))).toNat + 256 * (s.ram (BitVec.ofNat 16 ((n + 1) % 256))).toNat
    (s.ea (.izx b)).toNat = pointer (b.toNat + s.x.toNat) ∧
    (s.ea (.izy b)).toNat = (pointer b.toNat + s.y.toNat) % 65536

/-! ## Loads, stores, transfers -/

/-- R150, R151, R152: the loads complete on every operand form, with the operand in their register, N and Z
of it, and nothing else changed but PC and cycles; and their encodings. -/
def Obligations.LoadsFillTheirRegister : Prop :=
  ∀ (o : ReadOperand) (s : State),
    Completes (.lda o) s (fun t => t.a = s.operand o ∧ ShowsNZ t (s.operand o) ∧
      PassedBy s t o.mode.length (readCycles o) ∧ Frame s t [.a] [.n, .z] noStore) ∧
    Completes (.ldx o) s (fun t => t.x = s.operand o ∧ ShowsNZ t (s.operand o) ∧
      PassedBy s t o.mode.length (readCycles o) ∧ Frame s t [.x] [.n, .z] noStore) ∧
    Completes (.ldy o) s (fun t => t.y = s.operand o ∧ ShowsNZ t (s.operand o) ∧
      PassedBy s t o.mode.length (readCycles o) ∧ Frame s t [.y] [.n, .z] noStore) ∧
    (Instr.lda o).opcodes = [(.imm, 0xA9), (.zp, 0xA5), (.zpx, 0xB5), (.abs, 0xAD), (.abx, 0xBD), (.aby, 0xB9),
      (.izx, 0xA1), (.izy, 0xB1)] ∧
    (Instr.ldx o).opcodes = [(.imm, 0xA2), (.zp, 0xA6), (.zpy, 0xB6), (.abs, 0xAE), (.aby, 0xBE)] ∧
    (Instr.ldy o).opcodes = [(.imm, 0xA0), (.zp, 0xA4), (.zpx, 0xB4), (.abs, 0xAC), (.abx, 0xBC)]

/-- R153, R154, R155: the stores complete on every operand form, with RAM as one bus write of their register
at the effective address leaves it, no flag and no register changed, and every byte but the one at the
effective address as before; and their encodings. -/
def Obligations.StoresWriteTheirRegister : Prop :=
  ∀ (m : MemOperand) (s : State),
    Completes (.sta m) s (fun t => (∀ a, t.ram a = (s.write (s.ea m) s.a).ram a) ∧
      PassedBy s t m.mode.length (storeCycles m) ∧ Frame s t [] [] (fun a => a = s.ea m)) ∧
    Completes (.stx m) s (fun t => (∀ a, t.ram a = (s.write (s.ea m) s.x).ram a) ∧
      PassedBy s t m.mode.length (storeCycles m) ∧ Frame s t [] [] (fun a => a = s.ea m)) ∧
    Completes (.sty m) s (fun t => (∀ a, t.ram a = (s.write (s.ea m) s.y).ram a) ∧
      PassedBy s t m.mode.length (storeCycles m) ∧ Frame s t [] [] (fun a => a = s.ea m)) ∧
    (Instr.sta m).opcodes = [(.zp, 0x85), (.zpx, 0x95), (.abs, 0x8D), (.abx, 0x9D), (.aby, 0x99), (.izx, 0x81),
      (.izy, 0x91)] ∧
    (Instr.stx m).opcodes = [(.zp, 0x86), (.zpy, 0x96), (.abs, 0x8E)] ∧
    (Instr.sty m).opcodes = [(.zp, 0x84), (.zpx, 0x94), (.abs, 0x8C)] ∧
    ∀ (b : Byte) (w : Word), storeCycles (.abx w) = 5 ∧ storeCycles (.aby w) = 5 ∧ storeCycles (.izy b) = 6

/-- R156, R157, R158, R159, R160, R161: the register transfers complete; TXS alone leaves N and Z. -/
def Obligations.TransfersCopyRegisters : Prop :=
  ∀ s : State,
    Completes .tax s (fun t => t.x = s.a ∧ ShowsNZ t s.a ∧ PassedBy s t 1 2 ∧ Frame s t [.x] [.n, .z] noStore) ∧
    Completes .tay s (fun t => t.y = s.a ∧ ShowsNZ t s.a ∧ PassedBy s t 1 2 ∧ Frame s t [.y] [.n, .z] noStore) ∧
    Completes .txa s (fun t => t.a = s.x ∧ ShowsNZ t s.x ∧ PassedBy s t 1 2 ∧ Frame s t [.a] [.n, .z] noStore) ∧
    Completes .tya s (fun t => t.a = s.y ∧ ShowsNZ t s.y ∧ PassedBy s t 1 2 ∧ Frame s t [.a] [.n, .z] noStore) ∧
    Completes .tsx s (fun t => t.x = s.sp ∧ ShowsNZ t s.sp ∧ PassedBy s t 1 2 ∧ Frame s t [.x] [.n, .z] noStore) ∧
    Completes .txs s (fun t => t.sp = s.x ∧ PassedBy s t 1 2 ∧ Frame s t [.sp] [] noStore) ∧
    encode .tax = some [0xAA] ∧ encode .tay = some [0xA8] ∧ encode .txa = some [0x8A] ∧
    encode .tya = some [0x98] ∧ encode .tsx = some [0xBA] ∧ encode .txs = some [0x9A]

/-! ## Arithmetic and logic -/

/-- R170: ADC completes on every operand form: A is the exact sum A + M + C modulo 256, C its bit 8, V set
exactly when A and M have the same bit 7 and the result the other, N and Z of the result; D is neither
read nor changed. -/
def Obligations.AdcAddsWithCarry : Prop :=
  ∀ (o : ReadOperand) (s : State),
    Completes (.adc o) s (fun t =>
      let m := s.operand o
      let sum := s.a.toNat + m.toNat + (if s.flag .c then 1 else 0)
      t.a.toNat = sum % 256 ∧ t.flag .c = decide (256 ≤ sum) ∧
      (t.flag .v = true ↔ s.a.getLsbD 7 = m.getLsbD 7 ∧ t.a.getLsbD 7 ≠ s.a.getLsbD 7) ∧
      ShowsNZ t t.a ∧ PassedBy s t o.mode.length (readCycles o) ∧ Frame s t [.a] [.n, .v, .z, .c] noStore) ∧
    (Instr.adc o).opcodes = [(.imm, 0x69), (.zp, 0x65), (.zpx, 0x75), (.abs, 0x6D), (.abx, 0x7D), (.aby, 0x79),
      (.izx, 0x61), (.izy, 0x71)]

/-- R171: SBC completes on every operand form: A is A − M − (1 − C) modulo 256, C set exactly when that
difference is not negative, V set exactly when A and M differ in bit 7 and the result has M's, N and Z of
the result. -/
def Obligations.SbcSubtractsWithBorrow : Prop :=
  ∀ (o : ReadOperand) (s : State),
    Completes (.sbc o) s (fun t =>
      let m := s.operand o
      let difference : Int := (s.a.toNat : Int) - m.toNat - (if s.flag .c then 0 else 1)
      (t.a.toNat : Int) = difference % 256 ∧ t.flag .c = decide (0 ≤ difference) ∧
      (t.flag .v = true ↔ s.a.getLsbD 7 ≠ m.getLsbD 7 ∧ t.a.getLsbD 7 = m.getLsbD 7) ∧
      ShowsNZ t t.a ∧ PassedBy s t o.mode.length (readCycles o) ∧ Frame s t [.a] [.n, .v, .z, .c] noStore) ∧
    (Instr.sbc o).opcodes = [(.imm, 0xE9), (.zp, 0xE5), (.zpx, 0xF5), (.abs, 0xED), (.abx, 0xFD), (.aby, 0xF9),
      (.izx, 0xE1), (.izy, 0xF1)]

/-- R185, R170, R171: V is signed overflow: after ADC it is set exactly when the signed sum A + M + C falls
outside −128..127, after SBC exactly when A − M − (1 − C) does. -/
def Obligations.OverflowIsSignedOverflow : Prop :=
  ∀ (o : ReadOperand) (s t : State),
    let m := (s.operand o).toInt
    let inRange := fun n : Int => decide (-128 ≤ n ∧ n ≤ 127)
    (exec (.adc o) s = .next t → t.flag .v = !inRange (s.a.toInt + m + (if s.flag .c then 1 else 0))) ∧
    (exec (.sbc o) s = .next t → t.flag .v = !inRange (s.a.toInt - m - (if s.flag .c then 0 else 1)))

/-- R30: decimal mode has no arithmetic effect: from two states that differ only in D, ADC and SBC give the
same A, N, V, Z and C. -/
def Obligations.DecimalModeIsIgnored : Prop :=
  ∀ (o : ReadOperand) (s t u : State) (d : Bool) (i : Instr), i = .adc o ∨ i = .sbc o →
    exec i s = .next t → exec i (s.setFlag .d d) = .next u →
    u.a = t.a ∧ (∀ f, f ≠ .d → u.flag f = t.flag f) ∧ u.flag .d = d ∧ t.flag .d = s.flag .d

/-- R172, R173, R174: AND, ORA and EOR complete on every operand form; C and V are kept. -/
def Obligations.LogicOnTheAccumulator : Prop :=
  ∀ (o : ReadOperand) (s : State),
    Completes (.and o) s (fun t => t.a = s.a &&& s.operand o ∧ ShowsNZ t t.a ∧
      PassedBy s t o.mode.length (readCycles o) ∧ Frame s t [.a] [.n, .z] noStore) ∧
    Completes (.ora o) s (fun t => t.a = s.a ||| s.operand o ∧ ShowsNZ t t.a ∧
      PassedBy s t o.mode.length (readCycles o) ∧ Frame s t [.a] [.n, .z] noStore) ∧
    Completes (.eor o) s (fun t => t.a = s.a ^^^ s.operand o ∧ ShowsNZ t t.a ∧
      PassedBy s t o.mode.length (readCycles o) ∧ Frame s t [.a] [.n, .z] noStore) ∧
    (Instr.and o).opcodes = [(.imm, 0x29), (.zp, 0x25), (.zpx, 0x35), (.abs, 0x2D), (.abx, 0x3D), (.aby, 0x39),
      (.izx, 0x21), (.izy, 0x31)] ∧
    (Instr.ora o).opcodes = [(.imm, 0x09), (.zp, 0x05), (.zpx, 0x15), (.abs, 0x0D), (.abx, 0x1D), (.aby, 0x19),
      (.izx, 0x01), (.izy, 0x11)] ∧
    (Instr.eor o).opcodes = [(.imm, 0x49), (.zp, 0x45), (.zpx, 0x55), (.abs, 0x4D), (.abx, 0x5D), (.aby, 0x59),
      (.izx, 0x41), (.izy, 0x51)]

/-- R175: BIT completes on every operand form, with Z of A & M and N, V the bits 7, 6 of the memory byte. -/
def Obligations.BitTestsMemory : Prop :=
  ∀ (m : MemOperand) (s : State),
    Completes (.bit m) s (fun t =>
      let v := s.read (s.ea m)
      t.flag .z = (s.a &&& v == 0) ∧ t.flag .n = v.getLsbD 7 ∧ t.flag .v = v.getLsbD 6 ∧
      PassedBy s t m.mode.length (memReadCycles m) ∧ Frame s t [] [.n, .v, .z] noStore) ∧
    (Instr.bit m).opcodes = [(.zp, 0x24), (.abs, 0x2C)]

/-- R176, R177, R178: the comparisons complete on every operand form: C set exactly when the register is at
least M unsigned, Z exactly when they are equal, N the bit 7 of their difference; no register changes. -/
def Obligations.ComparisonsSetFlags : Prop :=
  ∀ (o : ReadOperand) (s : State),
    (∀ i r, (i = .cmp o ∧ r = s.a) ∨ (i = .cpx o ∧ r = s.x) ∨ (i = .cpy o ∧ r = s.y) →
      Completes i s (fun t =>
        let m := s.operand o
        t.flag .c = decide (m.toNat ≤ r.toNat) ∧ t.flag .z = (r == m) ∧ t.flag .n = (r - m).getLsbD 7 ∧
        PassedBy s t o.mode.length (readCycles o) ∧ Frame s t [] [.n, .z, .c] noStore)) ∧
    (Instr.cmp o).opcodes = [(.imm, 0xC9), (.zp, 0xC5), (.zpx, 0xD5), (.abs, 0xCD), (.abx, 0xDD), (.aby, 0xD9),
      (.izx, 0xC1), (.izy, 0xD1)] ∧
    (Instr.cpx o).opcodes = [(.imm, 0xE0), (.zp, 0xE4), (.abs, 0xEC)] ∧
    (Instr.cpy o).opcodes = [(.imm, 0xC0), (.zp, 0xC4), (.abs, 0xCC)]

/-- R179, R180: INC and DEC complete on every operand form: one bus write at the effective address of the
byte read there plus or minus one modulo 256, N and Z of that byte (not of what the bus stored); C and V
kept. -/
def Obligations.IncrementsAndDecrementsMemory : Prop :=
  ∀ (m : MemOperand) (s : State),
    (∀ i r, (i = .inc m ∧ r = s.read (s.ea m) + 1) ∨ (i = .dec m ∧ r = s.read (s.ea m) - 1) →
      Completes i s (fun t => (∀ a, t.ram a = (s.write (s.ea m) r).ram a) ∧ ShowsNZ t r ∧
        PassedBy s t m.mode.length (modifyCycles m) ∧ Frame s t [] [.n, .z] (fun a => a = s.ea m))) ∧
    (Instr.inc m).opcodes = [(.zp, 0xE6), (.zpx, 0xF6), (.abs, 0xEE), (.abx, 0xFE)] ∧
    (Instr.dec m).opcodes = [(.zp, 0xC6), (.zpx, 0xD6), (.abs, 0xCE), (.abx, 0xDE)]

/-- R181, R182, R183, R184: INX, INY, DEX and DEY complete, modulo 256, with N and Z; C kept. -/
def Obligations.IndexIncrementsAndDecrements : Prop :=
  ∀ s : State,
    Completes .inx s (fun t => t.x.toNat = (s.x.toNat + 1) % 256 ∧ ShowsNZ t t.x ∧ PassedBy s t 1 2 ∧
      Frame s t [.x] [.n, .z] noStore) ∧
    Completes .iny s (fun t => t.y.toNat = (s.y.toNat + 1) % 256 ∧ ShowsNZ t t.y ∧ PassedBy s t 1 2 ∧
      Frame s t [.y] [.n, .z] noStore) ∧
    Completes .dex s (fun t => t.x.toNat = (s.x.toNat + 255) % 256 ∧ ShowsNZ t t.x ∧ PassedBy s t 1 2 ∧
      Frame s t [.x] [.n, .z] noStore) ∧
    Completes .dey s (fun t => t.y.toNat = (s.y.toNat + 255) % 256 ∧ ShowsNZ t t.y ∧ PassedBy s t 1 2 ∧
      Frame s t [.y] [.n, .z] noStore) ∧
    encode .inx = some [0xE8] ∧ encode .iny = some [0xC8] ∧ encode .dex = some [0xCA] ∧
    encode .dey = some [0x88]

/-! ## Shifts -/

/-- R190, R191, R192, R193: the four shifts of a byte `v` with carry-in `c`, as numbers, and their encodings. -/
def Obligations.ShiftArithmetic : Prop :=
  ∀ (v : Byte) (c : Bool) (o : ShiftOperand),
    ((shiftLeft v c).value.toNat = v.toNat * 2 % 256 ∧ (shiftLeft v c).carry = v.getLsbD 7) ∧
    ((shiftRight v c).value.toNat = v.toNat / 2 ∧ (shiftRight v c).carry = v.getLsbD 0) ∧
    ((rotateLeft v c).value.toNat = (v.toNat * 2 + c.toNat) % 256 ∧ (rotateLeft v c).carry = v.getLsbD 7) ∧
    ((rotateRight v c).value.toNat = c.toNat * 128 + v.toNat / 2 ∧ (rotateRight v c).carry = v.getLsbD 0) ∧
    (Instr.asl o).opcodes = [(.acc, 0x0A), (.zp, 0x06), (.zpx, 0x16), (.abs, 0x0E), (.abx, 0x1E)] ∧
    (Instr.lsr o).opcodes = [(.acc, 0x4A), (.zp, 0x46), (.zpx, 0x56), (.abs, 0x4E), (.abx, 0x5E)] ∧
    (Instr.rol o).opcodes = [(.acc, 0x2A), (.zp, 0x26), (.zpx, 0x36), (.abs, 0x2E), (.abx, 0x3E)] ∧
    (Instr.ror o).opcodes = [(.acc, 0x6A), (.zp, 0x66), (.zpx, 0x76), (.abs, 0x6E), (.abx, 0x7E)]

/-- R194, with R190–R193's flags: on the accumulator the shifts complete in 2 cycles with the shifted A, C
the bit shifted out, N and Z of the result, no memory touched. -/
def Obligations.ShiftsOfTheAccumulator : Prop :=
  ∀ (s : State) (i : Instr) (f : Byte → Bool → Carried),
    (i = .asl .acc ∧ f = shiftLeft) ∨ (i = .lsr .acc ∧ f = shiftRight) ∨ (i = .rol .acc ∧ f = rotateLeft) ∨
      (i = .ror .acc ∧ f = rotateRight) →
    Completes i s (fun t => t.a = (f s.a (s.flag .c)).value ∧ t.flag .c = (f s.a (s.flag .c)).carry ∧
      ShowsNZ t t.a ∧ PassedBy s t 1 2 ∧ Frame s t [.a] [.n, .z, .c] noStore)

/-- R194, with R190–R193's flags: on memory the shifts complete on every memory form with one read and one
write of the effective address; C, N and Z are those of the computed result whatever the bus stores; A is
not touched. -/
def Obligations.ShiftsOfMemory : Prop :=
  ∀ (s : State) (m : MemOperand) (i : Instr) (f : Byte → Bool → Carried),
    (i = .asl (.mem m) ∧ f = shiftLeft) ∨ (i = .lsr (.mem m) ∧ f = shiftRight) ∨
      (i = .rol (.mem m) ∧ f = rotateLeft) ∨ (i = .ror (.mem m) ∧ f = rotateRight) →
    Completes i s (fun t =>
      let r := f (s.read (s.ea m)) (s.flag .c)
      (∀ a, t.ram a = (s.write (s.ea m) r.value).ram a) ∧ t.flag .c = r.carry ∧ ShowsNZ t r.value ∧
      PassedBy s t m.mode.length (modifyCycles m) ∧ Frame s t [] [.n, .z, .c] (fun a => a = s.ea m))

/-! ## Branches, jumps, calls -/

/-- R200–R208: every branch has its encoding and completes: not taken, PC is the next instruction and it costs 2; taken, PC is the
signed displacement from there, modulo 65536, and it costs 3, or 4 when the target's page is not the
next instruction's. -/
def Obligations.BranchesFollowTheirFlag : Prop :=
  ∀ (s : State) (d op : Byte) (i : Instr) (taken : Bool),
    (i = .bcc d ∧ op = 0x90 ∧ taken = !s.flag .c) ∨ (i = .bcs d ∧ op = 0xB0 ∧ taken = s.flag .c) ∨
    (i = .bne d ∧ op = 0xD0 ∧ taken = !s.flag .z) ∨ (i = .beq d ∧ op = 0xF0 ∧ taken = s.flag .z) ∨
    (i = .bpl d ∧ op = 0x10 ∧ taken = !s.flag .n) ∨ (i = .bmi d ∧ op = 0x30 ∧ taken = s.flag .n) ∨
    (i = .bvc d ∧ op = 0x50 ∧ taken = !s.flag .v) ∨ (i = .bvs d ∧ op = 0x70 ∧ taken = s.flag .v) →
    encode i = some [op, d] ∧
    Completes i s (fun t =>
      (taken = false → t.pc = s.pc + 2 ∧ t.cycles = s.cycles + 2) ∧
      (taken = true →
        (t.pc.toNat : Int) = ((s.pc.toNat : Int) + 2 + d.toInt) % 65536 ∧
        t.cycles = s.cycles + (if t.pc.toNat / 256 = (s.pc + 2).toNat / 256 then 3 else 4)) ∧
      Frame s t [] [] noStore)

/-- R209, R120, R123: JMP completes on both forms. The indirect pointer's high byte is read at the start of
the pointer's own page when the pointer is the last byte of a page and JMP_IND_PAGE_WRAP is set. -/
def Obligations.JumpTargets : Prop :=
  ∀ (s : State) (w : Word),
    Completes (.jmp (.abs w)) s (fun t => t.pc = w ∧ t.cycles = s.cycles + 3 ∧ Frame s t [] [] noStore) ∧
    Completes (.jmp (.ind w)) s (fun t =>
      t.pc = join
        (s.read (if s.cfg.jmpIndPageWrap = true ∧ w.toNat % 256 = 255 then w - 255 else w + 1)) (s.read w) ∧
      t.cycles = s.cycles + 5 ∧ Frame s t [] [] noStore) ∧
    (Instr.jmp (.abs w)).opcodes = [(.abs, 0x4C), (.ind, 0x6C)]

/-- R210: JSR completes: it pushes the address of its own last byte, high byte first, at STACK_BASE + SP and
below, wrapping in the page, and jumps; and its encoding. With the stack page in plain RAM, as by default. -/
def Obligations.JsrPushesItsLastByte : Prop :=
  ∀ (s : State) (w : Word), s.StackPlain →
    Completes (.jsr w) s (fun t =>
      t.pc = w ∧ t.sp = s.sp - 2 ∧ t.cycles = s.cycles + 6 ∧
      t.ram (s.stackAddr s.sp) = hi (s.pc + 2) ∧ t.ram (s.stackAddr (s.sp - 1)) = lo (s.pc + 2) ∧
      Frame s t [.sp] [] (fun a => a = s.stackAddr s.sp ∨ a = s.stackAddr (s.sp - 1))) ∧
    encode (.jsr w) = some [0x20, lo w, hi w]

/-- R211: RTS completes: PC is the pulled word plus one modulo 65536, SP grows by 2 modulo 256. -/
def Obligations.RtsAddsOne : Prop :=
  ∀ s : State,
    Completes .rts s (fun t =>
      t.pc = join (s.read (s.stackAddr (s.sp + 2))) (s.read (s.stackAddr (s.sp + 1))) + 1 ∧
      t.sp = s.sp + 2 ∧ t.cycles = s.cycles + 6 ∧ Frame s t [.sp] [] noStore) ∧
    encode .rts = some [0x60]

/-- R210 with R211: an RTS executed right after a JSR goes to the instruction after the JSR, with SP as it
was. -/
def Obligations.RtsReturnsFromJsr : Prop :=
  ∀ (s t u : State) (w : Word), s.StackPlain → exec (.jsr w) s = .next t → exec .rts t = .next u →
    u.pc = s.pc + 3 ∧ u.sp = s.sp

/-! ## Stack, flags, system -/

/-- R220, R221: PHA and PHP complete, with the pushed byte A, or P with bits 4 and 5 set, at STACK_BASE + SP.
With the stack page in plain RAM, as by default. -/
def Obligations.PushesOntoTheStack : Prop :=
  ∀ s : State, s.StackPlain →
    Completes .pha s (fun t => t.ram (s.stackAddr s.sp) = s.a ∧ t.sp = s.sp - 1 ∧ PassedBy s t 1 3 ∧
      Frame s t [.sp] [] (fun a => a = s.stackAddr s.sp)) ∧
    Completes .php s (fun t => t.ram (s.stackAddr s.sp) = s.p ||| 0x30 ∧ t.sp = s.sp - 1 ∧ PassedBy s t 1 3 ∧
      Frame s t [.sp] [] (fun a => a = s.stackAddr s.sp)) ∧
    encode .pha = some [0x48] ∧ encode .php = some [0x08]

/-- R222, R223: PLA and PLP complete: SP is incremented, the byte there goes to A with N and Z, or to P with
B kept 0 and U kept 1. -/
def Obligations.PullsFromTheStack : Prop :=
  ∀ s : State,
    Completes .pla s (fun t => t.a = s.read (s.stackAddr (s.sp + 1)) ∧ t.sp = s.sp + 1 ∧ ShowsNZ t t.a ∧
      PassedBy s t 1 4 ∧ Frame s t [.a, .sp] [.n, .z] noStore) ∧
    Completes .plp s (fun t =>
      let v := s.read (s.stackAddr (s.sp + 1))
      (∀ f, f ≠ .b → f ≠ .u → t.flag f = flagOf v f) ∧ t.flag .b = false ∧ t.flag .u = true ∧
      t.sp = s.sp + 1 ∧ PassedBy s t 1 4 ∧ Frame s t [.sp] [.n, .v, .u, .b, .d, .i, .z, .c] noStore) ∧
    encode .pla = some [0x68] ∧ encode .plp = some [0x28]

/-- R224–R230: the seven flag instructions complete, writing their flag and nothing else; an interrupt request
after CLI is taken, one after SEI is ignored while a break request is not. -/
def Obligations.FlagInstructions : Prop :=
  ∀ (s : State) (i : Instr) (op : Byte) (f : Flag) (value : Bool),
    (i, op, f, value) ∈ ([(.clc, 0x18, .c, false), (.sec, 0x38, .c, true), (.cli, 0x58, .i, false),
      (.sei, 0x78, .i, true), (.cld, 0xD8, .d, false), (.sed, 0xF8, .d, true),
      (.clv, 0xB8, .v, false)] : List (Instr × Byte × Flag × Bool)) →
    Completes i s (fun t => t.flag f = value ∧ PassedBy s t 1 2 ∧ Frame s t [] [f] noStore ∧
      (i = .cli → t.irq = t.intEntry t.cfg.irqVector false) ∧
      (i = .sei → t.irq = t ∧ t.forceBreak = t.intEntry t.cfg.forceBreakVector t.cfg.forceBreakB)) ∧
    encode i = some [op]

/-- R231, R234: NOP, and every undefined opcode, completes with no effect but PC + 1 and its cycles. -/
def Obligations.NoOperations : Prop :=
  ∀ (s : State) (op : Byte),
    Completes .nop s (fun t => PassedBy s t 1 2 ∧ Frame s t [] [] noStore) ∧
    Completes (.und op) s (fun t => PassedBy s t 1 s.cfg.undefCycles ∧ Frame s t [] [] noStore) ∧
    encode .nop = some [0xEA] ∧ (op ∈ undefinedOpcodes → encode (.und op) = some [op])

/-- R232: BRK completes by taking the software trap: pushed are the opcode address plus 2, high byte first,
and P with bits 4 and 5 set; I is set and no other flag changes; PC comes from the IRQ vector, read on the
bus after the pushes. With the stack page in plain RAM. -/
def Obligations.BrkTakesTheSoftwareTrap : Prop :=
  ∀ s : State, s.StackPlain →
    Completes .brk s (fun t =>
      t.ram (s.stackAddr s.sp) = hi (s.pc + 2) ∧ t.ram (s.stackAddr (s.sp - 1)) = lo (s.pc + 2) ∧
      t.ram (s.stackAddr (s.sp - 2)) = s.p ||| 0x30 ∧ t.sp = s.sp - 3 ∧ t.flag .i = true ∧
      t.cycles = s.cycles + 7 ∧ t.pc = (t.withCycles s.cycles).read16 s.cfg.irqVector ∧
      Frame s t [.sp] [.i]
        (fun a => a = s.stackAddr s.sp ∨ a = s.stackAddr (s.sp - 1) ∨ a = s.stackAddr (s.sp - 2))) ∧
    encode .brk = some [0x00]

/-- R233: RTI completes: the pulled status byte goes to P as PLP loads it, and PC is the pulled word, no one
added; SP grows by 3. -/
def Obligations.RtiReturnsFromTheTrap : Prop :=
  ∀ s : State,
    Completes .rti s (fun t =>
      let v := s.read (s.stackAddr (s.sp + 1))
      (∀ f, f ≠ .b → f ≠ .u → t.flag f = flagOf v f) ∧ t.flag .b = false ∧ t.flag .u = true ∧
      t.pc = join (s.read (s.stackAddr (s.sp + 3))) (s.read (s.stackAddr (s.sp + 2))) ∧
      t.sp = s.sp + 3 ∧ t.cycles = s.cycles + 6 ∧
      Frame s t [.sp] [.n, .v, .u, .b, .d, .i, .z, .c] noStore) ∧
    encode .rti = some [0x40]

/-- R232, R263 with R233: an RTI executed right after a trap entry restores P, SP and the saved PC: after BRK
the opcode address plus 2, after an interrupt or a break the interrupted PC. -/
def Obligations.RtiUndoesATrapEntry : Prop :=
  ∀ (s t u : State) (vector : Word) (b : Bool), s.StackPlain → s.Inv →
    (exec .brk s = .next t → exec .rti t = .next u → u.pc = s.pc + 2 ∧ u.p = s.p ∧ u.sp = s.sp) ∧
    (exec .rti (s.intEntry vector b) = .next u → u.pc = s.pc ∧ u.p = s.p ∧ u.sp = s.sp)

/-! ## Interrupts, scheduler, keyboard -/

/-- R262, R263, R266: a request while I is set changes nothing and is not remembered; otherwise, and for
ForceBreak always, interrupt entry pushes PC and the status with the given B, sets I, jumps through the
vector and takes its cycles from the budget. -/
def Obligations.InterruptEntry : Prop :=
  ∀ (s : State) (vector : Word) (b : Bool),
    (s.flag .i = true → s.irq = s) ∧
    (s.flag .i = false → s.irq = s.intEntry s.cfg.irqVector false) ∧
    s.forceBreak = s.intEntry s.cfg.forceBreakVector s.cfg.forceBreakB ∧
    (s.StackPlain →
      let t := s.intEntry vector b
      t.ram (s.stackAddr s.sp) = hi s.pc ∧ t.ram (s.stackAddr (s.sp - 1)) = lo s.pc ∧
      t.ram (s.stackAddr (s.sp - 2)) = (s.p &&& 0xCF) ||| 0x20 ||| (if b then 0x10 else 0x00) ∧
      t.sp = s.sp - 3 ∧ t.flag .i = true ∧ (∀ f, f ≠ .i → t.flag f = s.flag f) ∧
      t.pc = (t.withCycles s.cycles).read16 vector ∧
      t.a = s.a ∧ t.x = s.x ∧ t.y = s.y ∧ t.ticks = s.ticks ∧
      t.cycles = s.cycles + s.cfg.intEntryCycles ∧ t.balance = s.balance - s.cfg.intEntryCycles ∧
      ∀ a, a ≠ s.stackAddr s.sp → a ≠ s.stackAddr (s.sp - 1) → a ≠ s.stackAddr (s.sp - 2) → t.ram a = s.ram a)

/-- R271, R272: Execute always completes and ends with the balance at or below zero; where the balance was
not already so, it overruns by at most 6 (with UNDEF_CYCLES at most 7). -/
def Obligations.ExecuteSpendsItsBudget : Prop :=
  ∀ (budget : Nat) (s : State), s.cfg.undefCycles ≤ 7 →
    ∃ t, execute budget s = .next t ∧ t.balance ≤ 0 ∧
      (0 < s.balance + budget → -6 ≤ t.balance) ∧
      (s.balance + budget ≤ 0 → t = s.withBalance (s.balance + budget))

/-- What R272's loop and R130's costs give, the inference the spec draws in R273 and marks "[derived: from rule
R272 and 30_encoding.md rule R130]": with the default configuration, from a balance at or below zero, the
valve of 10000 instructions is never what ends a frame: at most 9828 instructions run, after which the balance is at or below zero, and
any valve from 9828 on gives the same frame. -/
def Obligations.ValveIsUnreachableByDefault : Prop :=
  ∀ s : State, s.cfg = Config.default → s.balance ≤ 0 →
    ∃ t, t.balance ≤ 0 ∧ (∀ n, 9828 ≤ n → runFrame n (s.withBalance (s.balance + 19656)) = .next t) ∧
      execute 19656 s = .next t

/-- R275, R276: with the default configuration, from a balance at or below zero, a tick completes, counts
itself, and over instructions and interrupt entry spends exactly the budget granted: cycles plus balance
grow by 19656, the balance stays between −13 and 0; and it renders exactly when the new count is even. -/
def Obligations.TickAccounting : Prop :=
  ∀ s : State, s.cfg = Config.default → s.balance ≤ 0 → -13 ≤ s.balance →
    ∃ t out, applyEvent .tick s = .next (t, out) ∧ t.ticks = s.ticks + 1 ∧
      (t.cycles : Int) + t.balance = s.cycles + s.balance + 19656 ∧ -13 ≤ t.balance ∧ t.balance ≤ 0 ∧
      out = (if (s.ticks + 1) % 2 = 0 then .pixels t.render else .nothing)

/-- R285: a key injected while fewer than ten are pending is stored behind them and counted; at ten or more
it is dropped. With the default addresses. That a length byte above 10 drops the key too is the spec's own
inference, R285's sentence "A length byte above 10 (only software could store one) also drops the key
[derived: D0's "once at 10" read as "at 10 or more", ...]", which its pseudocode's `else` agrees with. -/
def Obligations.InjectKeyStoresOrDrops : Prop :=
  ∀ (s : State) (code : Byte), s.cfg = Config.default →
    let n := (s.ram 0x00C6).toNat
    (n < 10 → ∀ a, (s.injectKey code).ram a =
      if a.toNat = 0x00C6 then BitVec.ofNat 8 (n + 1) else if a.toNat = 0x0277 + n then code else s.ram a) ∧
    (10 ≤ n → s.injectKey code = s) ∧
    (s.injectKey code).pc = s.pc ∧ (s.injectKey code).cycles = s.cycles ∧
    Frame s (s.injectKey code) [] [] (fun a => a.toNat = 0x00C6 ∨ (0x0277 ≤ a.toNat ∧ a.toNat ≤ 0x0280))

/-- R288: twelve keys injected into an empty FIFO, undrained, leave the first ten stored in order, the
length byte at 10, and the last two dropped. -/
def Obligations.TwelveKeysLeaveTen : Prop :=
  ∀ (s : State) (codes : List Byte), s.cfg = Config.default → s.ram 0x00C6 = 0 → codes.length = 12 →
    let t := codes.foldl State.injectKey s
    t.ram 0x00C6 = 10 ∧ (∀ k, k < 10 → t.ram (BitVec.ofNat 16 (0x0277 + k)) = codes.getD k 0) ∧
      t.ram 0x0281 = s.ram 0x0281

/-! ## Snapshot, restore, video -/

/-- R330, R331, R332: restoring a machine's own snapshot succeeds and gives back the very state, so that
every continuation is the same. -/
def Obligations.SnapshotRoundTrip : Prop :=
  ∀ s : State, s.Inv → s.restore (some s.snapshot) = (s, true)

/-- R331: a restore of a missing payload, or of one whose RAM is not 65536 bytes, fails and changes nothing;
any other succeeds and sets RAM, the registers and the tick count, leaving cycles, balance, ROM images
and configuration (the two fixed bits of P are normalised: D35, log entry 7, the model's choice). -/
def Obligations.RestoreIsAllOrNothing : Prop :=
  ∀ (s : State) (k : Snapshot),
    s.restore none = (s, false) ∧
    (k.ram.length ≠ 65536 → s.restore (some k) = (s, false)) ∧
    (k.ram.length = 65536 →
      ∃ t, s.restore (some k) = (t, true) ∧ (∀ a : Word, t.ram a = k.ram.getD a.toNat 0) ∧
        t.a = k.a ∧ t.x = k.x ∧ t.y = k.y ∧ t.sp = k.sp ∧ t.p = (k.p &&& 0xCF) ||| 0x20 ∧ t.pc = k.pc ∧
        t.ticks = k.ticks ∧ t.cycles = s.cycles ∧ t.balance = s.balance ∧ t.roms = s.roms ∧ t.cfg = s.cfg)

/-- R295: the drawing that Render makes by its loops, border, background, then every cell's bits in order,
is at every pixel the colour the closed form gives. The drawing is made on the unbounded surface of log entry
12 (DESIGN CHOICE): at positions outside the buffer of R291 the equality is about the model's surface alone,
and `State.render` cuts the surface to the buffer. -/
def Obligations.DrawingIsThePixelFunction : Prop :=
  ∀ (s : State) (y x : Nat), s.drawing y x = s.pixel y x

/-- R299: in the rendered buffer, the 8×8 region of a text cell whose glyph is all zero bits shows only the
background colour. On any geometry that holds the inner rectangle (R291). -/
def Obligations.BlankGlyphShowsBackground : Prop :=
  ∀ (s : State) (row col y x : Nat), row < 25 → col < 40 → y < 8 → x < 8 →
    s.cfg.innerX0 + 320 ≤ s.cfg.displayW → s.cfg.innerY0 + 200 ≤ s.cfg.displayH →
    (∀ r, r < 8 → s.glyphRow (s.cellCode (row * 40 + col)) r = 0) →
    ∃ rowOut, s.render[s.cfg.innerY0 + row * 8 + y]? = some rowOut ∧
      rowOut[s.cfg.innerX0 + col * 8 + x]? = some s.backgroundColour

/-! ## Keys -/

/-- R287: the host's key map and its typed text: the printable characters below 256 give their uppercase code
point, control characters and unmapped keys nothing, the named keys their codes, and text goes character by
character with a line feed as Enter. Which characters are printable and what uppercase is beyond a to z are
the model's (log entry 9, PRESUMED); the characters that entry leaves open are not spoken of. -/
def Obligations.KeysInjectTheirCodes : Prop :=
  ∀ (s : State) (c : Char) (text : List Char),
    let n := c.toNat
    (((0x20 ≤ n ∧ n ≤ 0x7E) ∨ (0xA0 ≤ n ∧ n ≤ 0xFE ∧ n ≠ 0xAD ∧ n ≠ 0xB5 ∧ n ≠ 0xDF)) →
      s.pressKey (.char c) = s.injectKey (BitVec.ofNat 8
        (if (0x61 ≤ n ∧ n ≤ 0x7A) ∨ (0xE0 ≤ n ∧ n ≠ 0xF7) then n - 0x20 else n))) ∧
    (n < 0x20 ∨ (0x7F ≤ n ∧ n ≤ 0x9F) → s.pressKey (.char c) = s) ∧
    s.pressKey .enter = s.injectKey 13 ∧ s.pressKey .backspace = s.injectKey 20 ∧
    s.pressKey .arrowLeft = s.injectKey 157 ∧ s.pressKey .arrowRight = s.injectKey 29 ∧
    s.pressKey .arrowUp = s.injectKey 145 ∧ s.pressKey .arrowDown = s.injectKey 17 ∧
    s.pressKey .unmapped = s ∧
    s.typeText [] = s ∧
    s.typeText (c :: text) = (s.pressKey (if n = 10 then .enter else .char c)).typeText text
end

