-- ==== Sys2Proof/Laws/State.lean ====
section
/-! SUPPORT. What each update of State leaves in each field: one lemma per field per update. -/

namespace Sys2Proof.Machine

variable (s : State)

@[simp] theorem State.withA_a (v : Byte) : (s.withA v).a = v := rfl
@[simp] theorem State.withA_x (v : Byte) : (s.withA v).x = s.x := rfl
@[simp] theorem State.withA_y (v : Byte) : (s.withA v).y = s.y := rfl
@[simp] theorem State.withA_sp (v : Byte) : (s.withA v).sp = s.sp := rfl
@[simp] theorem State.withA_p (v : Byte) : (s.withA v).p = s.p := rfl
@[simp] theorem State.withA_pc (v : Byte) : (s.withA v).pc = s.pc := rfl
@[simp] theorem State.withA_mem (v : Byte) : (s.withA v).mem = s.mem := rfl
@[simp] theorem State.withA_cycles (v : Byte) : (s.withA v).cycles = s.cycles := rfl
@[simp] theorem State.withA_balance (v : Byte) : (s.withA v).balance = s.balance := rfl
@[simp] theorem State.withA_ticks (v : Byte) : (s.withA v).ticks = s.ticks := rfl
@[simp] theorem State.withA_roms (v : Byte) : (s.withA v).roms = s.roms := rfl
@[simp] theorem State.withA_cfg (v : Byte) : (s.withA v).cfg = s.cfg := rfl

@[simp] theorem State.withX_a (v : Byte) : (s.withX v).a = s.a := rfl
@[simp] theorem State.withX_x (v : Byte) : (s.withX v).x = v := rfl
@[simp] theorem State.withX_y (v : Byte) : (s.withX v).y = s.y := rfl
@[simp] theorem State.withX_sp (v : Byte) : (s.withX v).sp = s.sp := rfl
@[simp] theorem State.withX_p (v : Byte) : (s.withX v).p = s.p := rfl
@[simp] theorem State.withX_pc (v : Byte) : (s.withX v).pc = s.pc := rfl
@[simp] theorem State.withX_mem (v : Byte) : (s.withX v).mem = s.mem := rfl
@[simp] theorem State.withX_cycles (v : Byte) : (s.withX v).cycles = s.cycles := rfl
@[simp] theorem State.withX_balance (v : Byte) : (s.withX v).balance = s.balance := rfl
@[simp] theorem State.withX_ticks (v : Byte) : (s.withX v).ticks = s.ticks := rfl
@[simp] theorem State.withX_roms (v : Byte) : (s.withX v).roms = s.roms := rfl
@[simp] theorem State.withX_cfg (v : Byte) : (s.withX v).cfg = s.cfg := rfl

@[simp] theorem State.withY_a (v : Byte) : (s.withY v).a = s.a := rfl
@[simp] theorem State.withY_x (v : Byte) : (s.withY v).x = s.x := rfl
@[simp] theorem State.withY_y (v : Byte) : (s.withY v).y = v := rfl
@[simp] theorem State.withY_sp (v : Byte) : (s.withY v).sp = s.sp := rfl
@[simp] theorem State.withY_p (v : Byte) : (s.withY v).p = s.p := rfl
@[simp] theorem State.withY_pc (v : Byte) : (s.withY v).pc = s.pc := rfl
@[simp] theorem State.withY_mem (v : Byte) : (s.withY v).mem = s.mem := rfl
@[simp] theorem State.withY_cycles (v : Byte) : (s.withY v).cycles = s.cycles := rfl
@[simp] theorem State.withY_balance (v : Byte) : (s.withY v).balance = s.balance := rfl
@[simp] theorem State.withY_ticks (v : Byte) : (s.withY v).ticks = s.ticks := rfl
@[simp] theorem State.withY_roms (v : Byte) : (s.withY v).roms = s.roms := rfl
@[simp] theorem State.withY_cfg (v : Byte) : (s.withY v).cfg = s.cfg := rfl

@[simp] theorem State.withSp_a (v : Byte) : (s.withSp v).a = s.a := rfl
@[simp] theorem State.withSp_x (v : Byte) : (s.withSp v).x = s.x := rfl
@[simp] theorem State.withSp_y (v : Byte) : (s.withSp v).y = s.y := rfl
@[simp] theorem State.withSp_sp (v : Byte) : (s.withSp v).sp = v := rfl
@[simp] theorem State.withSp_p (v : Byte) : (s.withSp v).p = s.p := rfl
@[simp] theorem State.withSp_pc (v : Byte) : (s.withSp v).pc = s.pc := rfl
@[simp] theorem State.withSp_mem (v : Byte) : (s.withSp v).mem = s.mem := rfl
@[simp] theorem State.withSp_cycles (v : Byte) : (s.withSp v).cycles = s.cycles := rfl
@[simp] theorem State.withSp_balance (v : Byte) : (s.withSp v).balance = s.balance := rfl
@[simp] theorem State.withSp_ticks (v : Byte) : (s.withSp v).ticks = s.ticks := rfl
@[simp] theorem State.withSp_roms (v : Byte) : (s.withSp v).roms = s.roms := rfl
@[simp] theorem State.withSp_cfg (v : Byte) : (s.withSp v).cfg = s.cfg := rfl

@[simp] theorem State.withP_a (v : Byte) : (s.withP v).a = s.a := rfl
@[simp] theorem State.withP_x (v : Byte) : (s.withP v).x = s.x := rfl
@[simp] theorem State.withP_y (v : Byte) : (s.withP v).y = s.y := rfl
@[simp] theorem State.withP_sp (v : Byte) : (s.withP v).sp = s.sp := rfl
@[simp] theorem State.withP_p (v : Byte) : (s.withP v).p = v := rfl
@[simp] theorem State.withP_pc (v : Byte) : (s.withP v).pc = s.pc := rfl
@[simp] theorem State.withP_mem (v : Byte) : (s.withP v).mem = s.mem := rfl
@[simp] theorem State.withP_cycles (v : Byte) : (s.withP v).cycles = s.cycles := rfl
@[simp] theorem State.withP_balance (v : Byte) : (s.withP v).balance = s.balance := rfl
@[simp] theorem State.withP_ticks (v : Byte) : (s.withP v).ticks = s.ticks := rfl
@[simp] theorem State.withP_roms (v : Byte) : (s.withP v).roms = s.roms := rfl
@[simp] theorem State.withP_cfg (v : Byte) : (s.withP v).cfg = s.cfg := rfl

@[simp] theorem State.withPc_a (v : Word) : (s.withPc v).a = s.a := rfl
@[simp] theorem State.withPc_x (v : Word) : (s.withPc v).x = s.x := rfl
@[simp] theorem State.withPc_y (v : Word) : (s.withPc v).y = s.y := rfl
@[simp] theorem State.withPc_sp (v : Word) : (s.withPc v).sp = s.sp := rfl
@[simp] theorem State.withPc_p (v : Word) : (s.withPc v).p = s.p := rfl
@[simp] theorem State.withPc_pc (v : Word) : (s.withPc v).pc = v := rfl
@[simp] theorem State.withPc_mem (v : Word) : (s.withPc v).mem = s.mem := rfl
@[simp] theorem State.withPc_cycles (v : Word) : (s.withPc v).cycles = s.cycles := rfl
@[simp] theorem State.withPc_balance (v : Word) : (s.withPc v).balance = s.balance := rfl
@[simp] theorem State.withPc_ticks (v : Word) : (s.withPc v).ticks = s.ticks := rfl
@[simp] theorem State.withPc_roms (v : Word) : (s.withPc v).roms = s.roms := rfl
@[simp] theorem State.withPc_cfg (v : Word) : (s.withPc v).cfg = s.cfg := rfl

@[simp] theorem State.withMem_a (v : Memory) : (s.withMem v).a = s.a := rfl
@[simp] theorem State.withMem_x (v : Memory) : (s.withMem v).x = s.x := rfl
@[simp] theorem State.withMem_y (v : Memory) : (s.withMem v).y = s.y := rfl
@[simp] theorem State.withMem_sp (v : Memory) : (s.withMem v).sp = s.sp := rfl
@[simp] theorem State.withMem_p (v : Memory) : (s.withMem v).p = s.p := rfl
@[simp] theorem State.withMem_pc (v : Memory) : (s.withMem v).pc = s.pc := rfl
@[simp] theorem State.withMem_mem (v : Memory) : (s.withMem v).mem = v := rfl
@[simp] theorem State.withMem_cycles (v : Memory) : (s.withMem v).cycles = s.cycles := rfl
@[simp] theorem State.withMem_balance (v : Memory) : (s.withMem v).balance = s.balance := rfl
@[simp] theorem State.withMem_ticks (v : Memory) : (s.withMem v).ticks = s.ticks := rfl
@[simp] theorem State.withMem_roms (v : Memory) : (s.withMem v).roms = s.roms := rfl
@[simp] theorem State.withMem_cfg (v : Memory) : (s.withMem v).cfg = s.cfg := rfl

@[simp] theorem State.withCycles_a (v : Nat) : (s.withCycles v).a = s.a := rfl
@[simp] theorem State.withCycles_x (v : Nat) : (s.withCycles v).x = s.x := rfl
@[simp] theorem State.withCycles_y (v : Nat) : (s.withCycles v).y = s.y := rfl
@[simp] theorem State.withCycles_sp (v : Nat) : (s.withCycles v).sp = s.sp := rfl
@[simp] theorem State.withCycles_p (v : Nat) : (s.withCycles v).p = s.p := rfl
@[simp] theorem State.withCycles_pc (v : Nat) : (s.withCycles v).pc = s.pc := rfl
@[simp] theorem State.withCycles_mem (v : Nat) : (s.withCycles v).mem = s.mem := rfl
@[simp] theorem State.withCycles_cycles (v : Nat) : (s.withCycles v).cycles = v := rfl
@[simp] theorem State.withCycles_balance (v : Nat) : (s.withCycles v).balance = s.balance := rfl
@[simp] theorem State.withCycles_ticks (v : Nat) : (s.withCycles v).ticks = s.ticks := rfl
@[simp] theorem State.withCycles_roms (v : Nat) : (s.withCycles v).roms = s.roms := rfl
@[simp] theorem State.withCycles_cfg (v : Nat) : (s.withCycles v).cfg = s.cfg := rfl

@[simp] theorem State.withBalance_a (v : Int) : (s.withBalance v).a = s.a := rfl
@[simp] theorem State.withBalance_x (v : Int) : (s.withBalance v).x = s.x := rfl
@[simp] theorem State.withBalance_y (v : Int) : (s.withBalance v).y = s.y := rfl
@[simp] theorem State.withBalance_sp (v : Int) : (s.withBalance v).sp = s.sp := rfl
@[simp] theorem State.withBalance_p (v : Int) : (s.withBalance v).p = s.p := rfl
@[simp] theorem State.withBalance_pc (v : Int) : (s.withBalance v).pc = s.pc := rfl
@[simp] theorem State.withBalance_mem (v : Int) : (s.withBalance v).mem = s.mem := rfl
@[simp] theorem State.withBalance_cycles (v : Int) : (s.withBalance v).cycles = s.cycles := rfl
@[simp] theorem State.withBalance_balance (v : Int) : (s.withBalance v).balance = v := rfl
@[simp] theorem State.withBalance_ticks (v : Int) : (s.withBalance v).ticks = s.ticks := rfl
@[simp] theorem State.withBalance_roms (v : Int) : (s.withBalance v).roms = s.roms := rfl
@[simp] theorem State.withBalance_cfg (v : Int) : (s.withBalance v).cfg = s.cfg := rfl

@[simp] theorem State.withTicks_a (v : Nat) : (s.withTicks v).a = s.a := rfl
@[simp] theorem State.withTicks_x (v : Nat) : (s.withTicks v).x = s.x := rfl
@[simp] theorem State.withTicks_y (v : Nat) : (s.withTicks v).y = s.y := rfl
@[simp] theorem State.withTicks_sp (v : Nat) : (s.withTicks v).sp = s.sp := rfl
@[simp] theorem State.withTicks_p (v : Nat) : (s.withTicks v).p = s.p := rfl
@[simp] theorem State.withTicks_pc (v : Nat) : (s.withTicks v).pc = s.pc := rfl
@[simp] theorem State.withTicks_mem (v : Nat) : (s.withTicks v).mem = s.mem := rfl
@[simp] theorem State.withTicks_cycles (v : Nat) : (s.withTicks v).cycles = s.cycles := rfl
@[simp] theorem State.withTicks_balance (v : Nat) : (s.withTicks v).balance = s.balance := rfl
@[simp] theorem State.withTicks_ticks (v : Nat) : (s.withTicks v).ticks = v := rfl
@[simp] theorem State.withTicks_roms (v : Nat) : (s.withTicks v).roms = s.roms := rfl
@[simp] theorem State.withTicks_cfg (v : Nat) : (s.withTicks v).cfg = s.cfg := rfl

@[simp] theorem State.withRoms_a (v : Roms) : (s.withRoms v).a = s.a := rfl
@[simp] theorem State.withRoms_x (v : Roms) : (s.withRoms v).x = s.x := rfl
@[simp] theorem State.withRoms_y (v : Roms) : (s.withRoms v).y = s.y := rfl
@[simp] theorem State.withRoms_sp (v : Roms) : (s.withRoms v).sp = s.sp := rfl
@[simp] theorem State.withRoms_p (v : Roms) : (s.withRoms v).p = s.p := rfl
@[simp] theorem State.withRoms_pc (v : Roms) : (s.withRoms v).pc = s.pc := rfl
@[simp] theorem State.withRoms_mem (v : Roms) : (s.withRoms v).mem = s.mem := rfl
@[simp] theorem State.withRoms_cycles (v : Roms) : (s.withRoms v).cycles = s.cycles := rfl
@[simp] theorem State.withRoms_balance (v : Roms) : (s.withRoms v).balance = s.balance := rfl
@[simp] theorem State.withRoms_ticks (v : Roms) : (s.withRoms v).ticks = s.ticks := rfl
@[simp] theorem State.withRoms_roms (v : Roms) : (s.withRoms v).roms = v := rfl
@[simp] theorem State.withRoms_cfg (v : Roms) : (s.withRoms v).cfg = s.cfg := rfl

end Sys2Proof.Machine
end

