-- ==== Sys2Proof/Laws/Flags.lean ====
section
/-! SUPPORT. Flags as bits of P: reading a flag after setting one, and what each flag computation leaves. -/

namespace Sys2Proof.Machine

/-- The bit number of a flag (R26). -/
def Flag.index : Flag → Nat
  | .c => 0
  | .z => 1
  | .i => 2
  | .d => 3
  | .b => 4
  | .u => 5
  | .v => 6
  | .n => 7

theorem flagOf_eq_getLsbD (p : Byte) (f : Flag) : flagOf p f = p.getLsbD f.index := by
  cases f <;> revert p <;> decide

theorem getLsbD_mask (f g : Flag) : f.mask.getLsbD g.index = decide (g = f) := by
  cases f <;> cases g <;> decide

/-- A flag after one flag is set: the value set, or what it was. -/
@[simp] theorem flagOf_putFlag (p : Byte) (f g : Flag) (b : Bool) :
    flagOf (putFlag p f b) g = if g = f then b else flagOf p g := by
  have hg : g.index < 8 := by cases g <;> decide
  rw [flagOf_eq_getLsbD, flagOf_eq_getLsbD]
  unfold putFlag
  split
  · rw [BitVec.getLsbD_or, getLsbD_mask]; by_cases h : g = f <;> simp_all
  · rw [BitVec.getLsbD_and, BitVec.getLsbD_not, getLsbD_mask]; by_cases h : g = f <;> simp_all

/-- Two status bytes with the same eight flags are the same byte. -/
theorem status_ext {p q : Byte} (h : ∀ f, flagOf p f = flagOf q f) : p = q := by
  apply BitVec.eq_of_getLsbD_eq
  intro k hk
  have e : ∃ f : Flag, f.index = k := by
    interval_cases k
    exacts [⟨.c, rfl⟩, ⟨.z, rfl⟩, ⟨.i, rfl⟩, ⟨.d, rfl⟩, ⟨.b, rfl⟩, ⟨.u, rfl⟩, ⟨.v, rfl⟩, ⟨.n, rfl⟩]
  obtain ⟨f, rfl⟩ := e
  simpa only [flagOf_eq_getLsbD] using h f

@[simp] theorem State.flag_setFlag (s : State) (f g : Flag) (b : Bool) :
    (s.setFlag f b).flag g = if g = f then b else s.flag g := flagOf_putFlag s.p f g b

/-- The flags after `SetNZ(r)`. -/
@[simp] theorem State.flag_setNZ (s : State) (r : Byte) (g : Flag) :
    (s.setNZ r).flag g = if g = .n then r.getLsbD 7 else if g = .z then r == 0 else s.flag g := by
  simp [State.setNZ]

/-- The register value a pulled status byte gives: B is 0, U is 1, the other six flags are the byte's. -/
theorem flagOf_loadedStatus (p : Byte) (f : Flag) :
    flagOf (loadedStatus p) f = if f = .b then false else if f = .u then true else flagOf p f := by
  cases f <;> revert p <;> decide

/-- Pushing a status byte and loading it back gives the register, if its B is 0 and its U is 1. -/
theorem loadedStatus_pushedBySoftware (p : Byte) : loadedStatus (pushedBySoftware p) = loadedStatus p := by
  revert p; decide

theorem loadedStatus_pushedByInterrupt (p : Byte) (b : Bool) :
    loadedStatus (pushedByInterrupt p b) = loadedStatus p := by
  cases b <;> revert p <;> decide

/-- A status byte with B 0 and U 1 is its own loaded value. -/
theorem loadedStatus_eq_self {p : Byte} (hb : flagOf p .b = false) (hu : flagOf p .u = true) : loadedStatus p = p := by
  revert p; decide

/-! ## Arithmetic -/

/-- The sum of two bytes and a carry-in of 0 or 1, as numbers (R28, R170). -/
theorem addCarry_spec (a b : Byte) (c : Nat) (hc : c ≤ 1) :
    (addCarry a b c).value.toNat = (a.toNat + b.toNat + c) % 256 ∧
      (addCarry a b c).carry = decide (256 ≤ a.toNat + b.toNat + c) := by
  have := a.isLt
  have := b.isLt
  refine ⟨by simp [addCarry], ?_⟩
  simp only [addCarry, Nat.testBit_eq_decide_div_mod_eq]
  apply decide_eq_decide.mpr
  omega

theorem State.carryIn_le (s : State) : s.carryIn ≤ 1 := by unfold State.carryIn; split <;> omega

/-- V as the sign bits show it (R28). -/
theorem overflow_eq (a b r : Byte) :
    overflow a b r = (a.getLsbD 7 == b.getLsbD 7 && r.getLsbD 7 != a.getLsbD 7) := by
  have h : ∀ x : Byte, (x &&& 0x80 != 0) = x.getLsbD 7 := by decide
  unfold overflow
  rw [h]
  simp only [BitVec.getLsbD_and, BitVec.getLsbD_not, BitVec.getLsbD_xor]
  cases a.getLsbD 7 <;> cases b.getLsbD 7 <;> cases r.getLsbD 7 <;> rfl

/-- The complement of a subtrahend (R171). -/
theorem complement_spec (m : Byte) : (complement m).toNat = 255 - m.toNat ∧ (complement m).getLsbD 7 = !m.getLsbD 7 := by
  revert m; decide

/-- A comparison subtracts, and its carry says that no borrow was needed (R176). -/
theorem compareCarry_spec (r m : Byte) :
    (compareCarry r m).value = r - m ∧ (compareCarry r m).carry = decide (m.toNat ≤ r.toNat) := by
  have h := addCarry_spec r (complement m) 1 (by omega)
  have hc := (complement_spec m).1
  have := r.isLt
  have := m.isLt
  constructor
  · apply BitVec.eq_of_toNat_eq
    unfold compareCarry
    rw [h.1, hc, BitVec.toNat_sub]
    omega
  · unfold compareCarry
    rw [h.2, hc]
    apply decide_eq_decide.mpr
    omega

end Sys2Proof.Machine
end

