-- ==== Sys2Proof/Laws/Memory.lean ====
section
/-! SUPPORT. Byte arrays: read after write (for every list, canonical or not), the canonical form kept by
every operation, and that a canonical array is determined by what it reads. -/

namespace Sys2Proof.Machine

/-! ## Read after write -/

theorem Memory.read_insert (m : Memory) (a b : Nat) (v : Byte) :
    Memory.read (Memory.insert m a v) b = if b = a then v else Memory.read m b := by
  induction m with
  | nil => simp only [Memory.insert, Memory.read, eq_comm]
  | cons c rest ih =>
    simp only [Memory.insert]
    split
    · simp only [Memory.read, eq_comm (a := b)]
    · split
      · rename_i h; subst h; simp only [Memory.read, eq_comm (a := b)]; split <;> simp_all
      · simp only [Memory.read, ih]; split <;> simp_all

theorem Memory.read_filter (m : Memory) (a b : Nat) :
    Memory.read (m.filter fun c => c.1 ≠ a) b = if b = a then Memory.unlisted else Memory.read m b := by
  induction m with
  | nil => simp [Memory.read]
  | cons c rest ih =>
    rcases c with ⟨k, u⟩
    by_cases h : k = a
    · subst h; simp only [ne_eq, List.filter_cons, not_true_eq_false, decide_false] at ih ⊢
      simp only [Memory.read]; rw [if_neg (by simp), ih]; split <;> simp_all [eq_comm]
    · simp only [ne_eq, List.filter_cons, h, not_false_eq_true, decide_true, ite_true] at ih ⊢
      simp only [Memory.read, ih]; split <;> simp_all

/-- A read after a write: the byte written at its address, every other byte as before. -/
theorem Memory.read_write (m : Memory) (a b : Nat) (v : Byte) :
    Memory.read (Memory.write m a v) b = if b = a then v else Memory.read m b := by
  unfold Memory.write
  split
  · rw [Memory.read_filter]; simp_all
  · exact Memory.read_insert m a b v

@[simp] theorem Memory.read_write_same (m : Memory) (a : Nat) (v : Byte) :
    Memory.read (Memory.write m a v) a = v := by rw [Memory.read_write, if_pos rfl]

theorem Memory.read_write_other {a b : Nat} (m : Memory) (v : Byte) (h : b ≠ a) :
    Memory.read (Memory.write m a v) b = Memory.read m b := by rw [Memory.read_write, if_neg h]

/-! ## The canonical form -/

theorem Memory.wfFrom_cons {size low : Nat} {c : Host.Cell} {rest : Memory} :
    Memory.wfFrom size low (c :: rest) = true ↔
      low ≤ c.1 ∧ c.1 < size ∧ c.2 ≠ Memory.unlisted ∧ Memory.wfFrom size (c.1 + 1) rest = true := by
  simp [Memory.wfFrom, and_assoc]

theorem Memory.wfFrom_mono {size : Nat} {m : Memory} {low low' : Nat} (h : low' ≤ low)
    (hm : Memory.wfFrom size low m = true) : Memory.wfFrom size low' m = true := by
  cases m with
  | nil => rfl
  | cons c rest =>
    rw [Memory.wfFrom_cons] at hm ⊢
    exact ⟨h.trans hm.1, hm.2⟩

theorem Memory.wfFrom_insert {size : Nat} {m : Memory} {low a : Nat} {v : Byte} (ha : low ≤ a) (hs : a < size)
    (hv : v ≠ Memory.unlisted) (hm : Memory.wfFrom size low m = true) :
    Memory.wfFrom size low (Memory.insert m a v) = true := by
  induction m generalizing low with
  | nil => simp [Memory.insert, Memory.wfFrom, ha, hs, hv]
  | cons c rest ih =>
    rw [Memory.wfFrom_cons] at hm
    obtain ⟨h1, h2, h3, h4⟩ := hm
    simp only [Memory.insert]
    split
    · rw [Memory.wfFrom_cons]
      refine ⟨ha, hs, hv, ?_⟩
      rw [Memory.wfFrom_cons]
      exact ⟨by simpa using ‹a < c.1›, h2, h3, h4⟩
    · split
      · rename_i h; rw [Memory.wfFrom_cons]; subst h; exact ⟨h1, h2, hv, h4⟩
      · rw [Memory.wfFrom_cons]; exact ⟨h1, h2, h3, ih (by omega) h4⟩

theorem Memory.wfFrom_filter {size : Nat} {m : Memory} {low : Nat} (q : Host.Cell → Bool)
    (hm : Memory.wfFrom size low m = true) : Memory.wfFrom size low (m.filter q) = true := by
  induction m generalizing low with
  | nil => rfl
  | cons c rest ih =>
    rw [Memory.wfFrom_cons] at hm
    obtain ⟨h1, h2, h3, h4⟩ := hm
    by_cases hq : q c
    · rw [List.filter_cons_of_pos hq, Memory.wfFrom_cons]; exact ⟨h1, h2, h3, ih h4⟩
    · rw [List.filter_cons_of_neg hq]; exact Memory.wfFrom_mono (by omega) (ih h4)

/-- A write inside the array keeps the canonical form. -/
theorem Memory.wf_write {size : Nat} {m : Memory} {a : Nat} {v : Byte} (hs : a < size)
    (hm : Memory.wf size m = true) : Memory.wf size (Memory.write m a v) = true := by
  unfold Memory.write
  split
  · exact Memory.wfFrom_filter _ hm
  · exact Memory.wfFrom_insert (Nat.zero_le a) hs ‹_› hm

theorem Memory.wf_writeAll {m : Memory} (cells : List (Word × Byte)) (hm : Memory.wf 65536 m = true) :
    Memory.wf 65536 (Memory.writeAll m cells) = true := by
  unfold Memory.writeAll
  induction cells generalizing m with
  | nil => exact hm
  | cons c rest ih => exact ih (Memory.wf_write c.1.isLt hm)

theorem Memory.wfFrom_ofBytes {size : Nat} (bytes : List Byte) (base : Nat) (h : base + bytes.length ≤ size) :
    Memory.wfFrom size base (Memory.ofBytes base bytes) = true := by
  induction bytes generalizing base with
  | nil => rfl
  | cons v rest ih =>
    simp only [List.length_cons] at h
    have hr := ih (base + 1) (by omega)
    simp only [Memory.ofBytes]
    split
    · exact Memory.wfFrom_mono (Nat.le_succ base) hr
    · rw [Memory.wfFrom_cons]; exact ⟨le_rfl, by simp; omega, ‹_›, hr⟩

/-- An image fits its array and is canonical. -/
theorem Memory.wf_ofBytes {size : Nat} (bytes : List Byte) (h : bytes.length ≤ size) :
    Memory.wf size (Memory.ofBytes 0 bytes) = true := Memory.wfFrom_ofBytes bytes 0 (by omega)

theorem Memory.read_ofBytes (bytes : List Byte) (base k : Nat) :
    Memory.read (Memory.ofBytes base bytes) (base + k) = bytes.getD k Memory.unlisted ∧
      (∀ b < base, Memory.read (Memory.ofBytes base bytes) b = Memory.unlisted) := by
  induction bytes generalizing base k with
  | nil => simp [Memory.ofBytes, Memory.read]
  | cons v rest ih =>
    simp only [Memory.ofBytes]
    cases k with
    | zero =>
      have h0 := (ih (base + 1) 0).2
      split
      · exact ⟨by rw [show base + 0 = base from rfl, h0 base (by omega)]; simp_all, fun b hb => h0 b (by omega)⟩
      · refine ⟨by simp [Memory.read], fun b hb => ?_⟩
        simp only [Memory.read]; rw [if_neg (by omega)]; exact h0 b (by omega)
    | succ k =>
      have h1 := ih (base + 1) k
      have e : base + (k + 1) = base + 1 + k := by omega
      split
      · exact ⟨by rw [e]; simpa using h1.1, fun b hb => h1.2 b (by omega)⟩
      · refine ⟨?_, fun b hb => ?_⟩
        · simp only [Memory.read]; rw [if_neg (by omega), e]; simpa using h1.1
        · simp only [Memory.read]; rw [if_neg (by omega)]; exact h1.2 b (by omega)

/-! ## A canonical array is what it reads -/

theorem Memory.read_below {size : Nat} {m : Memory} {low a : Nat} (hm : Memory.wfFrom size low m = true) (ha : a < low) :
    Memory.read m a = Memory.unlisted := by
  induction m generalizing low with
  | nil => rfl
  | cons c rest ih =>
    rw [Memory.wfFrom_cons] at hm
    simp only [Memory.read]
    rw [if_neg (by omega)]
    exact ih hm.2.2.2 (by omega)

theorem Memory.read_beyond {size : Nat} {m : Memory} {low a : Nat} (hm : Memory.wfFrom size low m = true)
    (ha : size ≤ a) : Memory.read m a = Memory.unlisted := by
  induction m generalizing low with
  | nil => rfl
  | cons c rest ih =>
    rw [Memory.wfFrom_cons] at hm
    simp only [Memory.read]
    rw [if_neg (by omega)]
    exact ih hm.2.2.2

theorem Memory.ext_from {size : Nat} {m m' : Memory} {low : Nat} (hm : Memory.wfFrom size low m = true)
    (hm' : Memory.wfFrom size low m' = true) (h : ∀ a, Memory.read m a = Memory.read m' a) : m = m' := by
  induction m generalizing low m' with
  | nil =>
    cases m' with
    | nil => rfl
    | cons c' rest' =>
      rw [Memory.wfFrom_cons] at hm'
      have := h c'.1
      simp only [Memory.read, if_pos] at this
      exact absurd this.symm hm'.2.2.1
  | cons c rest ih =>
    rw [Memory.wfFrom_cons] at hm
    obtain ⟨h1, h2, h3, h4⟩ := hm
    cases m' with
    | nil =>
      have := h c.1
      simp only [Memory.read, if_pos] at this
      exact absurd this h3
    | cons c' rest' =>
      rw [Memory.wfFrom_cons] at hm'
      obtain ⟨g1, g2, g3, g4⟩ := hm'
      have e : c.1 = c'.1 := by
        rcases Nat.lt_trichotomy c.1 c'.1 with hlt | he | hlt
        · have := h c.1
          simp only [Memory.read, if_pos] at this
          rw [if_neg (by omega), Memory.read_below g4 (by omega)] at this
          exact absurd this h3
        · exact he
        · have := h c'.1
          simp only [Memory.read, if_pos] at this
          rw [if_neg (by omega), Memory.read_below h4 (by omega)] at this
          exact absurd this.symm g3
      have ev : c.2 = c'.2 := by
        have := h c.1
        simpa only [Memory.read, if_pos, e] using this
      have er : rest = rest' := by
        refine ih h4 (e ▸ g4) fun a => ?_
        by_cases ha : a = c.1
        · rw [Memory.read_below h4 (by omega), Memory.read_below g4 (by omega)]
        · have := h a
          simp only [Memory.read] at this
          rwa [if_neg (by omega), if_neg (by omega)] at this
      rw [er, show c = c' from Prod.ext e ev]

/-- Two canonical arrays that read the same at every address are the same list. -/
theorem Memory.ext_read {size : Nat} {m m' : Memory} (hm : Memory.wf size m = true) (hm' : Memory.wf size m' = true)
    (h : ∀ a, Memory.read m a = Memory.read m' a) : m = m' := Memory.ext_from hm hm' h

end Sys2Proof.Machine
end

