-- ==== Sys2Proof/Laws/Ops.lean ====
section
/-! SUPPORT. What each shared operation leaves in each field, what a read depends on, and what the bus,
the stack and the traps do, said once for all instructions. -/

namespace Sys2Proof.Machine

/-! ## Fields the shared operations leave alone -/

section Fields

variable (s : State)

@[simp] theorem State.setFlag_a (f : Flag) (b : Bool) : (s.setFlag f b).a = s.a := rfl
@[simp] theorem State.setFlag_x (f : Flag) (b : Bool) : (s.setFlag f b).x = s.x := rfl
@[simp] theorem State.setFlag_y (f : Flag) (b : Bool) : (s.setFlag f b).y = s.y := rfl
@[simp] theorem State.setFlag_sp (f : Flag) (b : Bool) : (s.setFlag f b).sp = s.sp := rfl
@[simp] theorem State.setFlag_pc (f : Flag) (b : Bool) : (s.setFlag f b).pc = s.pc := rfl
@[simp] theorem State.setFlag_mem (f : Flag) (b : Bool) : (s.setFlag f b).mem = s.mem := rfl
@[simp] theorem State.setFlag_cycles (f : Flag) (b : Bool) : (s.setFlag f b).cycles = s.cycles := rfl
@[simp] theorem State.setFlag_balance (f : Flag) (b : Bool) : (s.setFlag f b).balance = s.balance := rfl
@[simp] theorem State.setFlag_ticks (f : Flag) (b : Bool) : (s.setFlag f b).ticks = s.ticks := rfl
@[simp] theorem State.setFlag_roms (f : Flag) (b : Bool) : (s.setFlag f b).roms = s.roms := rfl
@[simp] theorem State.setFlag_cfg (f : Flag) (b : Bool) : (s.setFlag f b).cfg = s.cfg := rfl

@[simp] theorem State.setNZ_a (r : Byte) : (s.setNZ r).a = s.a := rfl
@[simp] theorem State.setNZ_x (r : Byte) : (s.setNZ r).x = s.x := rfl
@[simp] theorem State.setNZ_y (r : Byte) : (s.setNZ r).y = s.y := rfl
@[simp] theorem State.setNZ_sp (r : Byte) : (s.setNZ r).sp = s.sp := rfl
@[simp] theorem State.setNZ_pc (r : Byte) : (s.setNZ r).pc = s.pc := rfl
@[simp] theorem State.setNZ_mem (r : Byte) : (s.setNZ r).mem = s.mem := rfl
@[simp] theorem State.setNZ_cycles (r : Byte) : (s.setNZ r).cycles = s.cycles := rfl
@[simp] theorem State.setNZ_balance (r : Byte) : (s.setNZ r).balance = s.balance := rfl
@[simp] theorem State.setNZ_ticks (r : Byte) : (s.setNZ r).ticks = s.ticks := rfl
@[simp] theorem State.setNZ_roms (r : Byte) : (s.setNZ r).roms = s.roms := rfl
@[simp] theorem State.setNZ_cfg (r : Byte) : (s.setNZ r).cfg = s.cfg := rfl

@[simp] theorem State.setRam_a (a : Word) (v : Byte) : (s.setRam a v).a = s.a := rfl
@[simp] theorem State.setRam_x (a : Word) (v : Byte) : (s.setRam a v).x = s.x := rfl
@[simp] theorem State.setRam_y (a : Word) (v : Byte) : (s.setRam a v).y = s.y := rfl
@[simp] theorem State.setRam_sp (a : Word) (v : Byte) : (s.setRam a v).sp = s.sp := rfl
@[simp] theorem State.setRam_p (a : Word) (v : Byte) : (s.setRam a v).p = s.p := rfl
@[simp] theorem State.setRam_pc (a : Word) (v : Byte) : (s.setRam a v).pc = s.pc := rfl
@[simp] theorem State.setRam_cycles (a : Word) (v : Byte) : (s.setRam a v).cycles = s.cycles := rfl
@[simp] theorem State.setRam_balance (a : Word) (v : Byte) : (s.setRam a v).balance = s.balance := rfl
@[simp] theorem State.setRam_ticks (a : Word) (v : Byte) : (s.setRam a v).ticks = s.ticks := rfl
@[simp] theorem State.setRam_roms (a : Word) (v : Byte) : (s.setRam a v).roms = s.roms := rfl
@[simp] theorem State.setRam_cfg (a : Word) (v : Byte) : (s.setRam a v).cfg = s.cfg := rfl

@[simp] theorem State.write_a (a : Word) (v : Byte) : (s.write a v).a = s.a := rfl
@[simp] theorem State.write_x (a : Word) (v : Byte) : (s.write a v).x = s.x := rfl
@[simp] theorem State.write_y (a : Word) (v : Byte) : (s.write a v).y = s.y := rfl
@[simp] theorem State.write_sp (a : Word) (v : Byte) : (s.write a v).sp = s.sp := rfl
@[simp] theorem State.write_p (a : Word) (v : Byte) : (s.write a v).p = s.p := rfl
@[simp] theorem State.write_pc (a : Word) (v : Byte) : (s.write a v).pc = s.pc := rfl
@[simp] theorem State.write_cycles (a : Word) (v : Byte) : (s.write a v).cycles = s.cycles := rfl
@[simp] theorem State.write_balance (a : Word) (v : Byte) : (s.write a v).balance = s.balance := rfl
@[simp] theorem State.write_ticks (a : Word) (v : Byte) : (s.write a v).ticks = s.ticks := rfl
@[simp] theorem State.write_roms (a : Word) (v : Byte) : (s.write a v).roms = s.roms := rfl
@[simp] theorem State.write_cfg (a : Word) (v : Byte) : (s.write a v).cfg = s.cfg := rfl

@[simp] theorem State.push_a (v : Byte) : (s.push v).a = s.a := rfl
@[simp] theorem State.push_x (v : Byte) : (s.push v).x = s.x := rfl
@[simp] theorem State.push_y (v : Byte) : (s.push v).y = s.y := rfl
@[simp] theorem State.push_p (v : Byte) : (s.push v).p = s.p := rfl
@[simp] theorem State.push_pc (v : Byte) : (s.push v).pc = s.pc := rfl
@[simp] theorem State.push_cycles (v : Byte) : (s.push v).cycles = s.cycles := rfl
@[simp] theorem State.push_balance (v : Byte) : (s.push v).balance = s.balance := rfl
@[simp] theorem State.push_ticks (v : Byte) : (s.push v).ticks = s.ticks := rfl
@[simp] theorem State.push_roms (v : Byte) : (s.push v).roms = s.roms := rfl
@[simp] theorem State.push_cfg (v : Byte) : (s.push v).cfg = s.cfg := rfl

@[simp] theorem State.pushWord_a (w : Word) : (s.pushWord w).a = s.a := by simp [State.pushWord]
@[simp] theorem State.pushWord_x (w : Word) : (s.pushWord w).x = s.x := by simp [State.pushWord]
@[simp] theorem State.pushWord_y (w : Word) : (s.pushWord w).y = s.y := by simp [State.pushWord]
@[simp] theorem State.pushWord_p (w : Word) : (s.pushWord w).p = s.p := by simp [State.pushWord]
@[simp] theorem State.pushWord_pc (w : Word) : (s.pushWord w).pc = s.pc := by simp [State.pushWord]
@[simp] theorem State.pushWord_cycles (w : Word) : (s.pushWord w).cycles = s.cycles := by simp [State.pushWord]
@[simp] theorem State.pushWord_balance (w : Word) : (s.pushWord w).balance = s.balance := by simp [State.pushWord]
@[simp] theorem State.pushWord_ticks (w : Word) : (s.pushWord w).ticks = s.ticks := by simp [State.pushWord]
@[simp] theorem State.pushWord_roms (w : Word) : (s.pushWord w).roms = s.roms := by simp [State.pushWord]
@[simp] theorem State.pushWord_cfg (w : Word) : (s.pushWord w).cfg = s.cfg := by simp [State.pushWord]

@[simp] theorem State.trapEntry_a (ret : Word) (status : Byte) (vector : Word) : (s.trapEntry ret status vector).a = s.a := by
  simp [State.trapEntry]
@[simp] theorem State.trapEntry_x (ret : Word) (status : Byte) (vector : Word) : (s.trapEntry ret status vector).x = s.x := by
  simp [State.trapEntry]
@[simp] theorem State.trapEntry_y (ret : Word) (status : Byte) (vector : Word) : (s.trapEntry ret status vector).y = s.y := by
  simp [State.trapEntry]
@[simp] theorem State.trapEntry_cycles (ret : Word) (status : Byte) (vector : Word) : (s.trapEntry ret status vector).cycles = s.cycles := by
  simp [State.trapEntry]
@[simp] theorem State.trapEntry_balance (ret : Word) (status : Byte) (vector : Word) : (s.trapEntry ret status vector).balance = s.balance := by
  simp [State.trapEntry]
@[simp] theorem State.trapEntry_ticks (ret : Word) (status : Byte) (vector : Word) : (s.trapEntry ret status vector).ticks = s.ticks := by
  simp [State.trapEntry]
@[simp] theorem State.trapEntry_roms (ret : Word) (status : Byte) (vector : Word) : (s.trapEntry ret status vector).roms = s.roms := by
  simp [State.trapEntry]
@[simp] theorem State.trapEntry_cfg (ret : Word) (status : Byte) (vector : Word) : (s.trapEntry ret status vector).cfg = s.cfg := by
  simp [State.trapEntry]


@[simp] theorem State.advance_a (n : Nat) : (s.advance n).a = s.a := rfl
@[simp] theorem State.advance_x (n : Nat) : (s.advance n).x = s.x := rfl
@[simp] theorem State.advance_y (n : Nat) : (s.advance n).y = s.y := rfl
@[simp] theorem State.advance_sp (n : Nat) : (s.advance n).sp = s.sp := rfl
@[simp] theorem State.advance_p (n : Nat) : (s.advance n).p = s.p := rfl
@[simp] theorem State.advance_mem (n : Nat) : (s.advance n).mem = s.mem := rfl
@[simp] theorem State.advance_cycles (n : Nat) : (s.advance n).cycles = s.cycles := rfl
@[simp] theorem State.advance_balance (n : Nat) : (s.advance n).balance = s.balance := rfl
@[simp] theorem State.advance_ticks (n : Nat) : (s.advance n).ticks = s.ticks := rfl
@[simp] theorem State.advance_roms (n : Nat) : (s.advance n).roms = s.roms := rfl
@[simp] theorem State.advance_cfg (n : Nat) : (s.advance n).cfg = s.cfg := rfl

@[simp] theorem State.spend_a (n : Nat) : (s.spend n).a = s.a := rfl
@[simp] theorem State.spend_x (n : Nat) : (s.spend n).x = s.x := rfl
@[simp] theorem State.spend_y (n : Nat) : (s.spend n).y = s.y := rfl
@[simp] theorem State.spend_sp (n : Nat) : (s.spend n).sp = s.sp := rfl
@[simp] theorem State.spend_p (n : Nat) : (s.spend n).p = s.p := rfl
@[simp] theorem State.spend_pc (n : Nat) : (s.spend n).pc = s.pc := rfl
@[simp] theorem State.spend_mem (n : Nat) : (s.spend n).mem = s.mem := rfl
@[simp] theorem State.spend_balance (n : Nat) : (s.spend n).balance = s.balance := rfl
@[simp] theorem State.spend_ticks (n : Nat) : (s.spend n).ticks = s.ticks := rfl
@[simp] theorem State.spend_roms (n : Nat) : (s.spend n).roms = s.roms := rfl
@[simp] theorem State.spend_cfg (n : Nat) : (s.spend n).cfg = s.cfg := rfl

@[simp] theorem State.pull_a : s.pull.2.a = s.a := rfl
@[simp] theorem State.pull_x : s.pull.2.x = s.x := rfl
@[simp] theorem State.pull_y : s.pull.2.y = s.y := rfl
@[simp] theorem State.pull_p : s.pull.2.p = s.p := rfl
@[simp] theorem State.pull_pc : s.pull.2.pc = s.pc := rfl
@[simp] theorem State.pull_mem : s.pull.2.mem = s.mem := rfl
@[simp] theorem State.pull_cycles : s.pull.2.cycles = s.cycles := rfl
@[simp] theorem State.pull_balance : s.pull.2.balance = s.balance := rfl
@[simp] theorem State.pull_ticks : s.pull.2.ticks = s.ticks := rfl
@[simp] theorem State.pull_roms : s.pull.2.roms = s.roms := rfl
@[simp] theorem State.pull_cfg : s.pull.2.cfg = s.cfg := rfl

@[simp] theorem State.pullWord_a : s.pullWord.2.a = s.a := by simp [State.pullWord]
@[simp] theorem State.pullWord_x : s.pullWord.2.x = s.x := by simp [State.pullWord]
@[simp] theorem State.pullWord_y : s.pullWord.2.y = s.y := by simp [State.pullWord]
@[simp] theorem State.pullWord_p : s.pullWord.2.p = s.p := by simp [State.pullWord]
@[simp] theorem State.pullWord_pc : s.pullWord.2.pc = s.pc := by simp [State.pullWord]
@[simp] theorem State.pullWord_mem : s.pullWord.2.mem = s.mem := by simp [State.pullWord]
@[simp] theorem State.pullWord_cycles : s.pullWord.2.cycles = s.cycles := by simp [State.pullWord]
@[simp] theorem State.pullWord_balance : s.pullWord.2.balance = s.balance := by simp [State.pullWord]
@[simp] theorem State.pullWord_ticks : s.pullWord.2.ticks = s.ticks := by simp [State.pullWord]
@[simp] theorem State.pullWord_roms : s.pullWord.2.roms = s.roms := by simp [State.pullWord]
@[simp] theorem State.pullWord_cfg : s.pullWord.2.cfg = s.cfg := by simp [State.pullWord]

@[simp] theorem State.trapReturn_a : (s.trapReturn).a = s.a := by
  simp [State.trapReturn]
@[simp] theorem State.trapReturn_x : (s.trapReturn).x = s.x := by
  simp [State.trapReturn]
@[simp] theorem State.trapReturn_y : (s.trapReturn).y = s.y := by
  simp [State.trapReturn]
@[simp] theorem State.trapReturn_mem : (s.trapReturn).mem = s.mem := by
  simp [State.trapReturn]
@[simp] theorem State.trapReturn_cycles : (s.trapReturn).cycles = s.cycles := by
  simp [State.trapReturn]
@[simp] theorem State.trapReturn_balance : (s.trapReturn).balance = s.balance := by
  simp [State.trapReturn]
@[simp] theorem State.trapReturn_ticks : (s.trapReturn).ticks = s.ticks := by
  simp [State.trapReturn]
@[simp] theorem State.trapReturn_roms : (s.trapReturn).roms = s.roms := by
  simp [State.trapReturn]
@[simp] theorem State.trapReturn_cfg : (s.trapReturn).cfg = s.cfg := by
  simp [State.trapReturn]

@[simp] theorem State.advance_pc (n : Nat) : (s.advance n).pc = s.pc + BitVec.ofNat 16 n := rfl
@[simp] theorem State.spend_cycles (n : Nat) : (s.spend n).cycles = s.cycles + n := rfl
@[simp] theorem State.push_sp (v : Byte) : (s.push v).sp = s.sp - 1 := rfl
@[simp] theorem State.pull_sp : s.pull.2.sp = s.sp + 1 := rfl
@[simp] theorem State.pushWord_sp (w : Word) : (s.pushWord w).sp = s.sp - 1 - 1 := by simp [State.pushWord]
@[simp] theorem State.pullWord_sp : s.pullWord.2.sp = s.sp + 1 + 1 := by simp [State.pullWord]
@[simp] theorem State.setFlag_p (f : Flag) (b : Bool) : (s.setFlag f b).p = putFlag s.p f b := rfl
@[simp] theorem State.trapEntry_sp (ret : Word) (status : Byte) (vector : Word) :
    (s.trapEntry ret status vector).sp = s.sp - 1 - 1 - 1 := by simp [State.trapEntry]
@[simp] theorem State.trapEntry_p (ret : Word) (status : Byte) (vector : Word) :
    (s.trapEntry ret status vector).p = putFlag s.p .i true := by simp [State.trapEntry]

end Fields

/-! ## What a read depends on -/

section Reads

variable (s : State)

@[simp] theorem State.read_withA (v : Byte) (b : Word) : (s.withA v).read b = s.read b := rfl
@[simp] theorem State.read_withX (v : Byte) (b : Word) : (s.withX v).read b = s.read b := rfl
@[simp] theorem State.read_withY (v : Byte) (b : Word) : (s.withY v).read b = s.read b := rfl
@[simp] theorem State.read_withSp (v : Byte) (b : Word) : (s.withSp v).read b = s.read b := rfl
@[simp] theorem State.read_withP (v : Byte) (b : Word) : (s.withP v).read b = s.read b := rfl
@[simp] theorem State.read_withPc (v : Word) (b : Word) : (s.withPc v).read b = s.read b := rfl
@[simp] theorem State.read_withBalance (v : Int) (b : Word) : (s.withBalance v).read b = s.read b := rfl
@[simp] theorem State.read_withTicks (v : Nat) (b : Word) : (s.withTicks v).read b = s.read b := rfl

/-- A bus read depends only on RAM, the ROM images, the configuration and the cycle count (R67, R70, R76). -/
theorem State.read_congr {s t : State} (hm : t.mem = s.mem) (hr : t.roms = s.roms) (hc : t.cfg = s.cfg)
    (hy : t.cycles = s.cycles) (a : Word) : t.read a = s.read a := by
  cases s; cases t; simp only at hm hr hc hy; subst hm; subst hr; subst hc; subst hy; rfl

/-- Which store backs an address depends only on the bank bits' byte and the configuration (R65). -/
theorem State.store_congr {s t : State} (h1 : t.ram 0x0001 = s.ram 0x0001) (hc : t.cfg = s.cfg) (a : Word) :
    t.store a = s.store a := by
  have hb : t.bank = s.bank := by unfold State.bank; rw [h1]
  unfold State.store State.bankView
  simp only [hb, hc]

end Reads

/-! ## RAM and bus writes -/

section Writes

variable (s : State)

theorem State.ram_setRam (a b : Word) (v : Byte) : (s.setRam a v).ram b = if b = a then v else s.ram b := by
  unfold State.ram State.setRam
  rw [State.withMem_mem, Memory.read_write]
  simp only [BitVec.toNat_inj]

/-- The RAM array after a bus write, address by address (R68, R73): the one byte the write can change holds
what its store makes of `v`; a ROM-shadowed write changes nothing. -/
theorem State.ram_write (a b : Word) (v : Byte) :
    (s.write a v).ram b =
      if b = a then
        (match s.store a with
          | .romExt => s.ram a
          | .romSys => s.ram a
          | .romGlyph => s.ram a
          | .peripherals => s.periphStored a v
          | .ram => v)
      else s.ram b := by
  have key : ∀ w, Memory.read (Memory.write s.mem a.toNat w) b.toNat = if b = a then w else s.ram b := by
    intro w; rw [Memory.read_write]; simp only [BitVec.toNat_inj, State.ram]
  unfold State.write State.memAfterWrite
  unfold State.ram at *
  cases s.store a <;> simp only [State.withMem_mem, key] <;> split <;> simp_all

/-- A bus write leaves every other RAM byte alone. -/
theorem State.ram_write_other {a b : Word} (v : Byte) (h : b ≠ a) : (s.write a v).ram b = s.ram b := by
  rw [State.ram_write, if_neg h]

/-- A write to a ROM-shadowed address changes no state (R68). -/
theorem State.write_shadowed {a : Word} (v : Byte)
    (h : s.store a = .romExt ∨ s.store a = .romSys ∨ s.store a = .romGlyph) : s.write a v = s := by
  unfold State.write State.memAfterWrite
  rcases h with h | h | h <;> rw [h] <;> rfl

theorem State.write_plain {a : Word} (v : Byte) (h : s.store a = .ram) : s.write a v = s.setRam a v := by
  unfold State.write State.memAfterWrite State.setRam; rw [h]

theorem State.wf_write {a : Word} {v : Byte} (h : Memory.wf 65536 s.mem = true) :
    Memory.wf 65536 (s.write a v).mem = true := by
  have hw : ∀ w, Memory.wf 65536 (Memory.write s.mem a.toNat w) = true := fun w => Memory.wf_write a.isLt h
  unfold State.write State.memAfterWrite
  rw [State.withMem_mem]
  cases s.store a
  exacts [hw _, h, h, h, hw _]

theorem State.wf_push {v : Byte} (h : Memory.wf 65536 s.mem = true) : Memory.wf 65536 (s.push v).mem = true :=
  s.wf_write h

theorem State.wf_pushWord {w : Word} (h : Memory.wf 65536 s.mem = true) :
    Memory.wf 65536 (s.pushWord w).mem = true := (s.push (hi w)).wf_push (s.wf_push h)

theorem State.wf_trapEntry {ret : Word} {status : Byte} {vector : Word} (h : Memory.wf 65536 s.mem = true) :
    Memory.wf 65536 (s.trapEntry ret status vector).mem = true := (s.pushWord ret).wf_push (s.wf_pushWord h)

end Writes

/-! ## Stores -/

/-- Page zero, the stack page and all of 0x0000–0x9FFF and 0xC000–0xCFFF are plain RAM under every bank
view (R66). -/
theorem storeOf_plain (view : BankView) (a : Word) (h : a.toNat < 0xA000 ∨ (0xC000 ≤ a.toNat ∧ a.toNat < 0xD000)) :
    storeOf view a = .ram := by
  unfold storeOf
  rw [if_neg (by omega), if_neg (by omega), if_neg (by omega)]

/-- A stack address as a number, for a stack page that does not wrap (R24). -/
theorem State.stackAddr_toNat (s : State) (offset : Byte) (h : s.cfg.stackBase.toNat ≤ 0x9F00) :
    (s.stackAddr offset).toNat = s.cfg.stackBase.toNat + offset.toNat := by
  have hlt := offset.isLt
  rw [State.stackAddr, zext, BitVec.toNat_add, BitVec.toNat_setWidth_of_le (by decide)]
  exact Nat.mod_eq_of_lt (by omega)

/-- With the stack page in 0x0000–0x9FFF every push lands in plain RAM (R24). -/
theorem State.store_stackAddr (s : State) (offset : Byte) (h : s.cfg.stackBase.toNat ≤ 0x9F00) :
    s.store (s.stackAddr offset) = .ram := by
  have hlt := offset.isLt
  have he := s.stackAddr_toNat offset h
  exact storeOf_plain _ _ (Or.inl (by omega))

/-! ## Completion -/

/-- Every instruction's shape completes, in this state. -/
theorem complete_eq (length cost : Nat) (body : State → State) (s : State) :
    complete length cost body s = .next ((body (s.advance length)).spend cost) := rfl

/-- The bytes of a word, joined, are the word. -/
@[simp] theorem join_hi_lo (w : Word) : join (hi w) (lo w) = w := by
  apply BitVec.eq_of_toNat_eq
  have := w.isLt
  simp only [join, hi, lo, BitVec.toNat_append, BitVec.extractLsb'_toNat, Nat.shiftLeft_eq]
  rw [← Nat.shiftLeft_eq, ← Nat.shiftLeft_add_eq_or_of_lt (by omega)]
  simp only [Nat.shiftLeft_eq, Nat.shiftRight_eq_div_pow]
  omega

@[simp] theorem hi_join (h l : Byte) : hi (join h l) = h := by
  apply BitVec.eq_of_toNat_eq
  have := h.isLt
  have := l.isLt
  simp only [join, hi, BitVec.toNat_append, BitVec.extractLsb'_toNat]
  rw [← Nat.shiftLeft_add_eq_or_of_lt (by omega)]
  simp only [Nat.shiftLeft_eq, Nat.shiftRight_eq_div_pow]
  omega

@[simp] theorem lo_join (h l : Byte) : lo (join h l) = l := by
  apply BitVec.eq_of_toNat_eq
  have := h.isLt
  have := l.isLt
  simp only [join, lo, BitVec.toNat_append, BitVec.extractLsb'_toNat]
  rw [← Nat.shiftLeft_add_eq_or_of_lt (by omega)]
  simp only [Nat.shiftLeft_eq, Nat.shiftRight_eq_div_pow]
  omega

/-! ## Words as numbers -/

theorem join_toNat (h l : Byte) : (join h l).toNat = l.toNat + 256 * h.toNat := by
  have := l.isLt
  simp only [join, BitVec.toNat_append]
  rw [← Nat.shiftLeft_add_eq_or_of_lt (by omega), Nat.shiftLeft_eq]
  omega

theorem zext_toNat (b : Byte) : (zext b).toNat = b.toNat := by
  rw [zext, BitVec.toNat_setWidth_of_le (by decide)]

theorem sext_toInt (b : Byte) : (sext b).toInt = b.toInt := by revert b; decide

theorem hi_toNat (w : Word) : (hi w).toNat = w.toNat / 256 := by
  have := w.isLt
  simp only [hi, BitVec.extractLsb'_toNat, Nat.shiftRight_eq_div_pow]
  omega

theorem lo_toNat (w : Word) : (lo w).toNat = w.toNat % 256 := by
  simp [lo, BitVec.extractLsb'_toNat]

/-! ## Reads again -/

/-- A 16-bit read depends on what a byte read depends on. -/
theorem State.read16_congr {s t : State} (hm : t.mem = s.mem) (hr : t.roms = s.roms) (hc : t.cfg = s.cfg)
    (hy : t.cycles = s.cycles) (a : Word) : t.read16 a = s.read16 a := by
  unfold State.read16
  rw [State.read_congr hm hr hc hy, State.read_congr hm hr hc hy]

@[simp] theorem State.read_advance (s : State) (n : Nat) (a : Word) : (s.advance n).read a = s.read a := rfl

/-- A bus read of page zero gives the RAM byte (R66). -/
theorem State.read_zeroPage (s : State) (b : Byte) : s.read (zext b) = s.ram (zext b) := by
  have h : s.store (zext b) = .ram :=
    storeOf_plain _ _ (Or.inl (by rw [zext_toNat]; have := b.isLt; omega))
  unfold State.read
  rw [h]

end Sys2Proof.Machine
end

