-- ==== Sys2Proof/Laws/Meanings.lean ====
section
/-! SUPPORT. What the operations that instructions share (loads, additions, comparisons, read-modify-write,
shifts, branches) leave in each field and in the flags. -/

namespace Sys2Proof.Machine

variable (s : State)

@[simp] theorem State.loadA_x (v : Byte) : (s.loadA v).x = s.x := by simp [State.loadA]
@[simp] theorem State.loadA_y (v : Byte) : (s.loadA v).y = s.y := by simp [State.loadA]
@[simp] theorem State.loadA_sp (v : Byte) : (s.loadA v).sp = s.sp := by simp [State.loadA]
@[simp] theorem State.loadA_pc (v : Byte) : (s.loadA v).pc = s.pc := by simp [State.loadA]
@[simp] theorem State.loadA_mem (v : Byte) : (s.loadA v).mem = s.mem := by simp [State.loadA]
@[simp] theorem State.loadA_cycles (v : Byte) : (s.loadA v).cycles = s.cycles := by simp [State.loadA]
@[simp] theorem State.loadA_balance (v : Byte) : (s.loadA v).balance = s.balance := by simp [State.loadA]
@[simp] theorem State.loadA_ticks (v : Byte) : (s.loadA v).ticks = s.ticks := by simp [State.loadA]
@[simp] theorem State.loadA_roms (v : Byte) : (s.loadA v).roms = s.roms := by simp [State.loadA]
@[simp] theorem State.loadA_cfg (v : Byte) : (s.loadA v).cfg = s.cfg := by simp [State.loadA]

@[simp] theorem State.loadX_a (v : Byte) : (s.loadX v).a = s.a := by simp [State.loadX]
@[simp] theorem State.loadX_y (v : Byte) : (s.loadX v).y = s.y := by simp [State.loadX]
@[simp] theorem State.loadX_sp (v : Byte) : (s.loadX v).sp = s.sp := by simp [State.loadX]
@[simp] theorem State.loadX_pc (v : Byte) : (s.loadX v).pc = s.pc := by simp [State.loadX]
@[simp] theorem State.loadX_mem (v : Byte) : (s.loadX v).mem = s.mem := by simp [State.loadX]
@[simp] theorem State.loadX_cycles (v : Byte) : (s.loadX v).cycles = s.cycles := by simp [State.loadX]
@[simp] theorem State.loadX_balance (v : Byte) : (s.loadX v).balance = s.balance := by simp [State.loadX]
@[simp] theorem State.loadX_ticks (v : Byte) : (s.loadX v).ticks = s.ticks := by simp [State.loadX]
@[simp] theorem State.loadX_roms (v : Byte) : (s.loadX v).roms = s.roms := by simp [State.loadX]
@[simp] theorem State.loadX_cfg (v : Byte) : (s.loadX v).cfg = s.cfg := by simp [State.loadX]

@[simp] theorem State.loadY_a (v : Byte) : (s.loadY v).a = s.a := by simp [State.loadY]
@[simp] theorem State.loadY_x (v : Byte) : (s.loadY v).x = s.x := by simp [State.loadY]
@[simp] theorem State.loadY_sp (v : Byte) : (s.loadY v).sp = s.sp := by simp [State.loadY]
@[simp] theorem State.loadY_pc (v : Byte) : (s.loadY v).pc = s.pc := by simp [State.loadY]
@[simp] theorem State.loadY_mem (v : Byte) : (s.loadY v).mem = s.mem := by simp [State.loadY]
@[simp] theorem State.loadY_cycles (v : Byte) : (s.loadY v).cycles = s.cycles := by simp [State.loadY]
@[simp] theorem State.loadY_balance (v : Byte) : (s.loadY v).balance = s.balance := by simp [State.loadY]
@[simp] theorem State.loadY_ticks (v : Byte) : (s.loadY v).ticks = s.ticks := by simp [State.loadY]
@[simp] theorem State.loadY_roms (v : Byte) : (s.loadY v).roms = s.roms := by simp [State.loadY]
@[simp] theorem State.loadY_cfg (v : Byte) : (s.loadY v).cfg = s.cfg := by simp [State.loadY]

@[simp] theorem State.addToA_x (b : Byte) : (s.addToA b).x = s.x := by simp [State.addToA]
@[simp] theorem State.addToA_y (b : Byte) : (s.addToA b).y = s.y := by simp [State.addToA]
@[simp] theorem State.addToA_sp (b : Byte) : (s.addToA b).sp = s.sp := by simp [State.addToA]
@[simp] theorem State.addToA_pc (b : Byte) : (s.addToA b).pc = s.pc := by simp [State.addToA]
@[simp] theorem State.addToA_mem (b : Byte) : (s.addToA b).mem = s.mem := by simp [State.addToA]
@[simp] theorem State.addToA_cycles (b : Byte) : (s.addToA b).cycles = s.cycles := by simp [State.addToA]
@[simp] theorem State.addToA_balance (b : Byte) : (s.addToA b).balance = s.balance := by simp [State.addToA]
@[simp] theorem State.addToA_ticks (b : Byte) : (s.addToA b).ticks = s.ticks := by simp [State.addToA]
@[simp] theorem State.addToA_roms (b : Byte) : (s.addToA b).roms = s.roms := by simp [State.addToA]
@[simp] theorem State.addToA_cfg (b : Byte) : (s.addToA b).cfg = s.cfg := by simp [State.addToA]

@[simp] theorem State.compare_a (r m : Byte) : (s.compare r m).a = s.a := by simp [State.compare]
@[simp] theorem State.compare_x (r m : Byte) : (s.compare r m).x = s.x := by simp [State.compare]
@[simp] theorem State.compare_y (r m : Byte) : (s.compare r m).y = s.y := by simp [State.compare]
@[simp] theorem State.compare_sp (r m : Byte) : (s.compare r m).sp = s.sp := by simp [State.compare]
@[simp] theorem State.compare_pc (r m : Byte) : (s.compare r m).pc = s.pc := by simp [State.compare]
@[simp] theorem State.compare_mem (r m : Byte) : (s.compare r m).mem = s.mem := by simp [State.compare]
@[simp] theorem State.compare_cycles (r m : Byte) : (s.compare r m).cycles = s.cycles := by simp [State.compare]
@[simp] theorem State.compare_balance (r m : Byte) : (s.compare r m).balance = s.balance := by simp [State.compare]
@[simp] theorem State.compare_ticks (r m : Byte) : (s.compare r m).ticks = s.ticks := by simp [State.compare]
@[simp] theorem State.compare_roms (r m : Byte) : (s.compare r m).roms = s.roms := by simp [State.compare]
@[simp] theorem State.compare_cfg (r m : Byte) : (s.compare r m).cfg = s.cfg := by simp [State.compare]

@[simp] theorem State.testBits_a (m : Byte) : (s.testBits m).a = s.a := by simp [State.testBits]
@[simp] theorem State.testBits_x (m : Byte) : (s.testBits m).x = s.x := by simp [State.testBits]
@[simp] theorem State.testBits_y (m : Byte) : (s.testBits m).y = s.y := by simp [State.testBits]
@[simp] theorem State.testBits_sp (m : Byte) : (s.testBits m).sp = s.sp := by simp [State.testBits]
@[simp] theorem State.testBits_pc (m : Byte) : (s.testBits m).pc = s.pc := by simp [State.testBits]
@[simp] theorem State.testBits_mem (m : Byte) : (s.testBits m).mem = s.mem := by simp [State.testBits]
@[simp] theorem State.testBits_cycles (m : Byte) : (s.testBits m).cycles = s.cycles := by simp [State.testBits]
@[simp] theorem State.testBits_balance (m : Byte) : (s.testBits m).balance = s.balance := by simp [State.testBits]
@[simp] theorem State.testBits_ticks (m : Byte) : (s.testBits m).ticks = s.ticks := by simp [State.testBits]
@[simp] theorem State.testBits_roms (m : Byte) : (s.testBits m).roms = s.roms := by simp [State.testBits]
@[simp] theorem State.testBits_cfg (m : Byte) : (s.testBits m).cfg = s.cfg := by simp [State.testBits]

@[simp] theorem State.modify_a (ea : Word) (f : Byte → Byte) : (s.modify ea f).a = s.a := by simp [State.modify]
@[simp] theorem State.modify_x (ea : Word) (f : Byte → Byte) : (s.modify ea f).x = s.x := by simp [State.modify]
@[simp] theorem State.modify_y (ea : Word) (f : Byte → Byte) : (s.modify ea f).y = s.y := by simp [State.modify]
@[simp] theorem State.modify_sp (ea : Word) (f : Byte → Byte) : (s.modify ea f).sp = s.sp := by simp [State.modify]
@[simp] theorem State.modify_pc (ea : Word) (f : Byte → Byte) : (s.modify ea f).pc = s.pc := by simp [State.modify]
@[simp] theorem State.modify_cycles (ea : Word) (f : Byte → Byte) : (s.modify ea f).cycles = s.cycles := by simp [State.modify]
@[simp] theorem State.modify_balance (ea : Word) (f : Byte → Byte) : (s.modify ea f).balance = s.balance := by simp [State.modify]
@[simp] theorem State.modify_ticks (ea : Word) (f : Byte → Byte) : (s.modify ea f).ticks = s.ticks := by simp [State.modify]
@[simp] theorem State.modify_roms (ea : Word) (f : Byte → Byte) : (s.modify ea f).roms = s.roms := by simp [State.modify]
@[simp] theorem State.modify_cfg (ea : Word) (f : Byte → Byte) : (s.modify ea f).cfg = s.cfg := by simp [State.modify]

@[simp] theorem State.shift_x (o : ShiftOperand) (f : Byte → Bool → Carried) : (s.shift o f).x = s.x := by
  cases o <;> simp [State.shift]
@[simp] theorem State.shift_y (o : ShiftOperand) (f : Byte → Bool → Carried) : (s.shift o f).y = s.y := by
  cases o <;> simp [State.shift]
@[simp] theorem State.shift_sp (o : ShiftOperand) (f : Byte → Bool → Carried) : (s.shift o f).sp = s.sp := by
  cases o <;> simp [State.shift]
@[simp] theorem State.shift_pc (o : ShiftOperand) (f : Byte → Bool → Carried) : (s.shift o f).pc = s.pc := by
  cases o <;> simp [State.shift]
@[simp] theorem State.shift_cycles (o : ShiftOperand) (f : Byte → Bool → Carried) : (s.shift o f).cycles = s.cycles := by
  cases o <;> simp [State.shift]
@[simp] theorem State.shift_balance (o : ShiftOperand) (f : Byte → Bool → Carried) : (s.shift o f).balance = s.balance := by
  cases o <;> simp [State.shift]
@[simp] theorem State.shift_ticks (o : ShiftOperand) (f : Byte → Bool → Carried) : (s.shift o f).ticks = s.ticks := by
  cases o <;> simp [State.shift]
@[simp] theorem State.shift_roms (o : ShiftOperand) (f : Byte → Bool → Carried) : (s.shift o f).roms = s.roms := by
  cases o <;> simp [State.shift]
@[simp] theorem State.shift_cfg (o : ShiftOperand) (f : Byte → Bool → Carried) : (s.shift o f).cfg = s.cfg := by
  cases o <;> simp [State.shift]

@[simp] theorem State.loadA_a (v : Byte) : (s.loadA v).a = v := by simp [State.loadA]
@[simp] theorem State.loadX_x (v : Byte) : (s.loadX v).x = v := by simp [State.loadX]
@[simp] theorem State.loadY_y (v : Byte) : (s.loadY v).y = v := by simp [State.loadY]
@[simp] theorem State.addToA_a (b : Byte) : (s.addToA b).a = (addCarry s.a b s.carryIn).value := by simp [State.addToA]
@[simp] theorem State.modify_mem (ea : Word) (f : Byte → Byte) : (s.modify ea f).mem = (s.write ea (f (s.read ea))).mem := by
  simp [State.modify]

/-! ## Flags -/

/-- A flag depends only on P. -/
theorem State.flag_congr {s t : State} (h : t.p = s.p) (f : Flag) : t.flag f = s.flag f := by
  unfold State.flag; rw [h]

@[simp] theorem State.flag_loadA (v : Byte) (f : Flag) :
    (s.loadA v).flag f = if f = .n then v.getLsbD 7 else if f = .z then v == 0 else s.flag f := by
  rw [State.loadA, State.flag_setNZ]; rfl

@[simp] theorem State.flag_loadX (v : Byte) (f : Flag) :
    (s.loadX v).flag f = if f = .n then v.getLsbD 7 else if f = .z then v == 0 else s.flag f := by
  rw [State.loadX, State.flag_setNZ]; rfl

@[simp] theorem State.flag_loadY (v : Byte) (f : Flag) :
    (s.loadY v).flag f = if f = .n then v.getLsbD 7 else if f = .z then v == 0 else s.flag f := by
  rw [State.loadY, State.flag_setNZ]; rfl

/-- The flags after an addition to A (R170, R171). -/
theorem State.flag_addToA (b : Byte) (f : Flag) :
    (s.addToA b).flag f =
      let r := addCarry s.a b s.carryIn
      if f = .n then r.value.getLsbD 7 else if f = .z then r.value == 0
      else if f = .v then overflow s.a b r.value else if f = .c then r.carry else s.flag f := by
  unfold State.addToA
  simp only [State.flag_loadA, State.flag_setFlag]

/-- The flags after a comparison (R176). -/
theorem State.flag_compare (r m : Byte) (f : Flag) :
    (s.compare r m).flag f =
      let t := compareCarry r m
      if f = .n then t.value.getLsbD 7 else if f = .z then t.value == 0 else if f = .c then t.carry else s.flag f := by
  unfold State.compare
  simp only [State.flag_setNZ, State.flag_setFlag]

/-- The flags after BIT (R175). -/
theorem State.flag_testBits (m : Byte) (f : Flag) :
    (s.testBits m).flag f =
      if f = .v then m.getLsbD 6 else if f = .n then m.getLsbD 7 else if f = .z then s.a &&& m == 0 else s.flag f := by
  unfold State.testBits
  simp only [State.flag_setFlag]

@[simp] theorem State.flag_write (a : Word) (v : Byte) (f : Flag) : (s.write a v).flag f = s.flag f := rfl
@[simp] theorem State.flag_advance (n : Nat) (f : Flag) : (s.advance n).flag f = s.flag f := rfl
@[simp] theorem State.flag_spend (n : Nat) (f : Flag) : (s.spend n).flag f = s.flag f := rfl
@[simp] theorem State.flag_withPc (w : Word) (f : Flag) : (s.withPc w).flag f = s.flag f := rfl
@[simp] theorem State.flag_withSp (v : Byte) (f : Flag) : (s.withSp v).flag f = s.flag f := rfl
@[simp] theorem State.flag_push (v : Byte) (f : Flag) : (s.push v).flag f = s.flag f := rfl
@[simp] theorem State.flag_pushWord (w : Word) (f : Flag) : (s.pushWord w).flag f = s.flag f :=
  State.flag_congr (State.pushWord_p s w) f
@[simp] theorem State.flag_pull (f : Flag) : s.pull.2.flag f = s.flag f := rfl
@[simp] theorem State.flag_pullWord (f : Flag) : s.pullWord.2.flag f = s.flag f :=
  State.flag_congr (State.pullWord_p s) f

/-- The flags after the read-modify-write of INC and DEC (R179, R180). -/
theorem State.flag_modify (ea : Word) (g : Byte → Byte) (f : Flag) :
    (s.modify ea g).flag f =
      let r := g (s.read ea)
      if f = .n then r.getLsbD 7 else if f = .z then r == 0 else s.flag f := by
  unfold State.modify
  simp only [State.flag_setNZ, State.flag_write]

/-- The flags after a shift, whose result is `r` on either operand (R194). -/
theorem State.flag_shift (o : ShiftOperand) (g : Byte → Bool → Carried) (f : Flag) :
    (s.shift o g).flag f =
      let v := match o with
        | .acc => s.a
        | .mem m => s.read (s.ea m)
      let r := g v (s.flag .c)
      if f = .n then r.value.getLsbD 7 else if f = .z then r.value == 0 else if f = .c then r.carry else s.flag f := by
  cases o <;> simp only [State.shift, State.flag_loadA, State.flag_setNZ, State.flag_setFlag, State.flag_write]

/-! ## RAM -/

/-- RAM depends only on the array. -/
theorem State.ram_congr {s t : State} (h : t.mem = s.mem) (a : Word) : t.ram a = s.ram a := by
  unfold State.ram; rw [h]

@[simp] theorem State.ram_push_other {a : Word} (v : Byte) (h : a ≠ s.stackAddr s.sp) : (s.push v).ram a = s.ram a :=
  State.ram_write_other s v h

/-- With the stack page in plain RAM, a push stores its byte at the stack pointer's address. -/
theorem State.ram_push (v : Byte) (a : Word) (h : s.cfg.stackBase.toNat ≤ 0x9F00) :
    (s.push v).ram a = if a = s.stackAddr s.sp then v else s.ram a := by
  have := s.ram_write (s.stackAddr s.sp) a v
  rw [s.store_stackAddr s.sp h] at this
  exact this

/-- With the stack page in plain RAM, a read of it gives the RAM byte. -/
theorem State.read_stackAddr (offset : Byte) (h : s.cfg.stackBase.toNat ≤ 0x9F00) :
    s.read (s.stackAddr offset) = s.ram (s.stackAddr offset) := by
  unfold State.read; rw [s.store_stackAddr offset h]

/-- Different offsets are different stack addresses. -/
theorem State.stackAddr_inj {i j : Byte} (h : s.stackAddr i = s.stackAddr j) : i = j := by
  have h' : zext i = zext j := by simpa [State.stackAddr] using h
  have := congrArg BitVec.toNat h'
  rw [zext, zext, BitVec.toNat_setWidth_of_le (by decide), BitVec.toNat_setWidth_of_le (by decide)] at this
  exact BitVec.eq_of_toNat_eq this

/-- The stack addresses depend only on the configuration. -/
theorem State.stackAddr_congr {s t : State} (h : t.cfg = s.cfg) (i : Byte) : t.stackAddr i = s.stackAddr i := by
  unfold State.stackAddr; rw [h]

/-- With the stack page in plain RAM, the bytes of a pushed word: the high byte at the stack pointer, the low
byte below it (R24, R80). -/
theorem State.ram_pushWord (w : Word) (a : Word) (h : s.cfg.stackBase.toNat ≤ 0x9F00) :
    (s.pushWord w).ram a =
      if a = s.stackAddr (s.sp - 1) then lo w else if a = s.stackAddr s.sp then hi w else s.ram a := by
  unfold State.pushWord
  rw [State.ram_push _ _ _ (by simpa using h), State.ram_push _ _ _ h]
  rfl

/-- With the stack page in plain RAM, the three bytes a trap entry pushes (R232, R263). -/
theorem State.ram_trapEntry (ret : Word) (status : Byte) (vector : Word) (a : Word) (h : s.cfg.stackBase.toNat ≤ 0x9F00) :
    (s.trapEntry ret status vector).ram a =
      if a = s.stackAddr (s.sp - 2) then status else if a = s.stackAddr (s.sp - 1) then lo ret
      else if a = s.stackAddr s.sp then hi ret else s.ram a := by
  have e : (s.trapEntry ret status vector).ram a = ((s.pushWord ret).push status).ram a := rfl
  have hsp : s.sp - 1 - 1 = s.sp - 2 := by generalize s.sp = b; revert b; decide
  rw [e, State.ram_push _ _ _ (by simpa using h), State.ram_pushWord _ _ _ h, State.pushWord_sp, hsp,
    State.stackAddr_congr (State.pushWord_cfg _ _)]

/-- A trap entry goes where the vector points, as read after the pushes (R232, R263). -/
theorem State.trapEntry_pc (ret : Word) (status : Byte) (vector : Word) :
    (s.trapEntry ret status vector).pc = (s.trapEntry ret status vector).read16 vector := rfl

/-- A trap return: status from the first byte pulled, PC from the next two (R233). -/
theorem State.trapReturn_pc :
    s.trapReturn.pc = join (s.read (s.stackAddr (s.sp + 3))) (s.read (s.stackAddr (s.sp + 2))) := by
  have h2 : s.sp + 1 + 1 = s.sp + 2 := by generalize s.sp = b; revert b; decide
  have h3 : s.sp + 1 + 1 + 1 = s.sp + 3 := by generalize s.sp = b; revert b; decide
  rw [← h2, ← h3]
  rfl

theorem State.trapReturn_p : s.trapReturn.p = loadedStatus (s.read (s.stackAddr (s.sp + 1))) := by
  simp [State.trapReturn]
  rfl

theorem State.trapReturn_sp : s.trapReturn.sp = s.sp + 3 := by
  have h3 : s.sp + 1 + 1 + 1 = s.sp + 3 := by generalize s.sp = b; revert b; decide
  rw [← h3]
  simp [State.trapReturn]

/-- The word a pull of two bytes gives (R24, R80). -/
theorem State.pullWord_fst :
    s.pullWord.1 = join (s.read (s.stackAddr (s.sp + 2))) (s.read (s.stackAddr (s.sp + 1))) := by
  have h2 : s.sp + 1 + 1 = s.sp + 2 := by generalize s.sp = b; revert b; decide
  rw [← h2]
  rfl

/-! ## PC passed over the instruction -/

@[simp] theorem State.ea_advance (n : Nat) (m : MemOperand) : (s.advance n).ea m = s.ea m := by cases m <;> rfl

@[simp] theorem State.operand_advance (n : Nat) (o : ReadOperand) : (s.advance n).operand o = s.operand o := by
  cases o with
  | imm v => rfl
  | mem m => show (s.advance n).read ((s.advance n).ea m) = s.read (s.ea m); rw [State.ea_advance]; rfl

@[simp] theorem State.carryIn_advance (n : Nat) : (s.advance n).carryIn = s.carryIn := rfl

@[simp] theorem State.write_advance_mem (n : Nat) (a : Word) (v : Byte) :
    ((s.advance n).write a v).mem = (s.write a v).mem := rfl

/-- RAM after a shift of a memory operand: one bus write of the result (R194). -/
theorem State.shift_mem_mem (m : MemOperand) (f : Byte → Bool → Carried) :
    (s.shift (.mem m) f).mem = (s.write (s.ea m) (f (s.read (s.ea m)) (s.flag .c)).value).mem := by
  simp [State.shift]

@[simp] theorem State.shift_acc_mem (f : Byte → Bool → Carried) : (s.shift .acc f).mem = s.mem := by
  simp [State.shift]

@[simp] theorem State.shift_mem_a (m : MemOperand) (f : Byte → Bool → Carried) : (s.shift (.mem m) f).a = s.a := by
  simp [State.shift]

@[simp] theorem State.ram_spend (n : Nat) (a : Word) : (s.spend n).ram a = s.ram a := rfl

@[simp] theorem State.ram_advance (n : Nat) (a : Word) : (s.advance n).ram a = s.ram a := rfl

/-! ## Branches -/

/-- What a branch answers: always a next state, whose PC and cycles are those of the branch rule and whose
other fields are as before (R200). -/
theorem branch_eq (taken : Bool) (d : Byte) :
    branch taken d s = .next ((s.withPc (if taken then s.pc + 2 + sext d else s.pc + 2)).withCycles
      (s.cycles + (2 + branchExtra taken (s.pc + 2) (s.pc + 2 + sext d)))) := by
  cases taken <;> rfl

end Sys2Proof.Machine
end

