-- ==== Sys2Proof/Laws/Exec.lean ====
section
/-! SUPPORT. Each instruction's meaning as `exec` gives it: the shape `complete` with its length, cost and
operation, or the branch rule with its condition. Proofs rewrite with these and never unfold `exec`. -/

namespace Sys2Proof.Machine

variable (s : State)

theorem exec_lda (o : ReadOperand) : exec (.lda o) s =
    complete o.mode.length (readCycles o) (fun t => t.loadA (t.operand o)) s := rfl

theorem exec_ldx (o : ReadOperand) : exec (.ldx o) s =
    complete o.mode.length (readCycles o) (fun t => t.loadX (t.operand o)) s := rfl

theorem exec_ldy (o : ReadOperand) : exec (.ldy o) s =
    complete o.mode.length (readCycles o) (fun t => t.loadY (t.operand o)) s := rfl

theorem exec_sta (m : MemOperand) : exec (.sta m) s =
    complete m.mode.length (storeCycles m) (fun t => t.write (t.ea m) t.a) s := rfl

theorem exec_stx (m : MemOperand) : exec (.stx m) s =
    complete m.mode.length (storeCycles m) (fun t => t.write (t.ea m) t.x) s := rfl

theorem exec_sty (m : MemOperand) : exec (.sty m) s =
    complete m.mode.length (storeCycles m) (fun t => t.write (t.ea m) t.y) s := rfl

theorem exec_tax : exec .tax s =
    complete 1 2 (fun t => t.loadX t.a) s := rfl

theorem exec_tay : exec .tay s =
    complete 1 2 (fun t => t.loadY t.a) s := rfl

theorem exec_txa : exec .txa s =
    complete 1 2 (fun t => t.loadA t.x) s := rfl

theorem exec_tya : exec .tya s =
    complete 1 2 (fun t => t.loadA t.y) s := rfl

theorem exec_tsx : exec .tsx s =
    complete 1 2 (fun t => t.loadX t.sp) s := rfl

theorem exec_txs : exec .txs s =
    complete 1 2 (fun t => t.withSp t.x) s := rfl

theorem exec_adc (o : ReadOperand) : exec (.adc o) s =
    complete o.mode.length (readCycles o) (fun t => t.addToA (t.operand o)) s := rfl

theorem exec_sbc (o : ReadOperand) : exec (.sbc o) s =
    complete o.mode.length (readCycles o) (fun t => t.addToA (complement (t.operand o))) s := rfl

theorem exec_and (o : ReadOperand) : exec (.and o) s =
    complete o.mode.length (readCycles o) (fun t => t.loadA (t.a &&& t.operand o)) s := rfl

theorem exec_ora (o : ReadOperand) : exec (.ora o) s =
    complete o.mode.length (readCycles o) (fun t => t.loadA (t.a ||| t.operand o)) s := rfl

theorem exec_eor (o : ReadOperand) : exec (.eor o) s =
    complete o.mode.length (readCycles o) (fun t => t.loadA (t.a ^^^ t.operand o)) s := rfl

theorem exec_bit (m : MemOperand) : exec (.bit m) s =
    complete m.mode.length (memReadCycles m) (fun t => t.testBits (t.operand (.mem m))) s := rfl

theorem exec_cmp (o : ReadOperand) : exec (.cmp o) s =
    complete o.mode.length (readCycles o) (fun t => t.compare t.a (t.operand o)) s := rfl

theorem exec_cpx (o : ReadOperand) : exec (.cpx o) s =
    complete o.mode.length (readCycles o) (fun t => t.compare t.x (t.operand o)) s := rfl

theorem exec_cpy (o : ReadOperand) : exec (.cpy o) s =
    complete o.mode.length (readCycles o) (fun t => t.compare t.y (t.operand o)) s := rfl

theorem exec_inc (m : MemOperand) : exec (.inc m) s =
    complete m.mode.length (modifyCycles m) (fun t => t.modify (t.ea m) (fun v => v + 1)) s := rfl

theorem exec_dec (m : MemOperand) : exec (.dec m) s =
    complete m.mode.length (modifyCycles m) (fun t => t.modify (t.ea m) (fun v => v - 1)) s := rfl

theorem exec_inx : exec .inx s =
    complete 1 2 (fun t => t.loadX (t.x + 1)) s := rfl

theorem exec_iny : exec .iny s =
    complete 1 2 (fun t => t.loadY (t.y + 1)) s := rfl

theorem exec_dex : exec .dex s =
    complete 1 2 (fun t => t.loadX (t.x - 1)) s := rfl

theorem exec_dey : exec .dey s =
    complete 1 2 (fun t => t.loadY (t.y - 1)) s := rfl

theorem exec_asl (o : ShiftOperand) : exec (.asl o) s =
    complete o.mode.length (shiftCycles o) (fun t => t.shift o shiftLeft) s := rfl

theorem exec_lsr (o : ShiftOperand) : exec (.lsr o) s =
    complete o.mode.length (shiftCycles o) (fun t => t.shift o shiftRight) s := rfl

theorem exec_rol (o : ShiftOperand) : exec (.rol o) s =
    complete o.mode.length (shiftCycles o) (fun t => t.shift o rotateLeft) s := rfl

theorem exec_ror (o : ShiftOperand) : exec (.ror o) s =
    complete o.mode.length (shiftCycles o) (fun t => t.shift o rotateRight) s := rfl

theorem exec_bcc (d : Byte) : exec (.bcc d) s =
    branch (!s.flag .c) d s := rfl

theorem exec_bcs (d : Byte) : exec (.bcs d) s =
    branch (s.flag .c) d s := rfl

theorem exec_beq (d : Byte) : exec (.beq d) s =
    branch (s.flag .z) d s := rfl

theorem exec_bmi (d : Byte) : exec (.bmi d) s =
    branch (s.flag .n) d s := rfl

theorem exec_bne (d : Byte) : exec (.bne d) s =
    branch (!s.flag .z) d s := rfl

theorem exec_bpl (d : Byte) : exec (.bpl d) s =
    branch (!s.flag .n) d s := rfl

theorem exec_bvc (d : Byte) : exec (.bvc d) s =
    branch (!s.flag .v) d s := rfl

theorem exec_bvs (d : Byte) : exec (.bvs d) s =
    branch (s.flag .v) d s := rfl

theorem exec_jmp (o : JumpOperand) : exec (.jmp o) s =
    complete o.mode.length (jumpCycles o) (fun t => t.withPc (t.jumpTarget o)) s := rfl

theorem exec_jsr (target : Word) : exec (.jsr target) s =
    complete 3 6 (fun t => (t.pushWord (t.pc - 1)).withPc target) s := rfl

theorem exec_rts : exec .rts s =
    complete 1 6 (fun t => t.pullWord.2.withPc (t.pullWord.1 + 1)) s := rfl

theorem exec_pha : exec .pha s =
    complete 1 3 (fun t => t.push t.a) s := rfl

theorem exec_php : exec .php s =
    complete 1 3 (fun t => t.push (pushedBySoftware t.p)) s := rfl

theorem exec_pla : exec .pla s =
    complete 1 4 (fun t => t.pull.2.loadA t.pull.1) s := rfl

theorem exec_plp : exec .plp s =
    complete 1 4 (fun t => t.pull.2.withP (loadedStatus t.pull.1)) s := rfl

theorem exec_clc : exec .clc s =
    complete 1 2 (fun t => t.setFlag .c false) s := rfl

theorem exec_sec : exec .sec s =
    complete 1 2 (fun t => t.setFlag .c true) s := rfl

theorem exec_cli : exec .cli s =
    complete 1 2 (fun t => t.setFlag .i false) s := rfl

theorem exec_sei : exec .sei s =
    complete 1 2 (fun t => t.setFlag .i true) s := rfl

theorem exec_cld : exec .cld s =
    complete 1 2 (fun t => t.setFlag .d false) s := rfl

theorem exec_sed : exec .sed s =
    complete 1 2 (fun t => t.setFlag .d true) s := rfl

theorem exec_clv : exec .clv s =
    complete 1 2 (fun t => t.setFlag .v false) s := rfl

theorem exec_nop : exec .nop s =
    complete 1 2 (fun t => t) s := rfl

theorem exec_brk : exec .brk s =
    complete 1 7 (fun t => t.trapEntry (t.pc + 1) (pushedBySoftware t.p) t.cfg.irqVector) s := rfl

theorem exec_rti : exec .rti s =
    complete 1 6 (fun t => t.trapReturn) s := rfl

theorem exec_und (opcode : Byte) : exec (.und opcode) s =
    complete 1 s.cfg.undefCycles (fun t => t) s := rfl

end Sys2Proof.Machine
end

