-- ==== Sys2Proof/Laws/Frame.lean ====
section
/-! SUPPORT. How a frame is shown, field by field, and what the interrupt entry leaves. -/

namespace Sys2Proof.Machine

/-- A frame from its parts: each register is named or kept. -/
theorem Frame.of_fields {s t : State} {regs : List Reg} {flags : List Flag} {stored : Word → Prop}
    (ha : .a ∈ regs ∨ t.a = s.a) (hx : .x ∈ regs ∨ t.x = s.x) (hy : .y ∈ regs ∨ t.y = s.y)
    (hsp : .sp ∈ regs ∨ t.sp = s.sp) (hf : ∀ f, f ∉ flags → t.flag f = s.flag f)
    (hm : ∀ a, ¬ stored a → t.ram a = s.ram a) (hb : t.balance = s.balance) (ht : t.ticks = s.ticks)
    (hr : t.roms = s.roms) (hc : t.cfg = s.cfg) : Frame s t regs flags stored := by
  refine ⟨fun r h => ?_, hf, hm, hb, ht, hr, hc⟩
  cases r
  exacts [ha.resolve_left h, hx.resolve_left h, hy.resolve_left h, hsp.resolve_left h]

section IntEntry

variable (s : State) (vector : Word) (b : Bool)

theorem State.intEntry_pc : (s.intEntry vector b).pc = (s.trapEntry s.pc (pushedByInterrupt s.p b) vector).pc := by
  simp only [State.intEntry, State.withBalance_pc, State.withCycles_pc]

theorem State.intEntry_mem : (s.intEntry vector b).mem = (s.trapEntry s.pc (pushedByInterrupt s.p b) vector).mem := by
  simp only [State.intEntry, State.withBalance_mem, State.withCycles_mem]

theorem State.intEntry_p : (s.intEntry vector b).p = putFlag s.p .i true := by simp [State.intEntry]

theorem State.intEntry_roms : (s.intEntry vector b).roms = s.roms := by simp [State.intEntry]

theorem State.intEntry_cfg : (s.intEntry vector b).cfg = s.cfg := by simp [State.intEntry]

/-- Interrupt entry goes where the vector points, as read after the pushes and before its cycles (R263). -/
theorem State.intEntry_vector :
    (s.intEntry vector b).pc = ((s.intEntry vector b).withCycles s.cycles).read16 vector := by
  rw [State.intEntry_pc, State.trapEntry_pc]
  apply State.read16_congr
  · simp only [State.withCycles_mem, State.intEntry_mem]
  · simp only [State.withCycles_roms, State.intEntry_roms, State.trapEntry_roms]
  · simp only [State.withCycles_cfg, State.intEntry_cfg, State.trapEntry_cfg]
  · simp only [State.withCycles_cycles, State.trapEntry_cycles]

end IntEntry

end Sys2Proof.Machine
end

