-- ==== Sys2Proof/Laws/Keyboard.lean ====
section
/-! SUPPORT. What the host's key map gives, and how typed text goes character by character. -/

namespace Sys2Proof.Machine

theorem charCode_control {n : Nat} (h : isControl n) : charCode n = none := if_pos h

/-- The code of every character below 256 that the spec does not leave open. -/
theorem charCode_byte {n : Nat} (hc : ¬ isControl n) (ho : ¬ isOpen n) (hn : n < 256) :
    charCode n = some (BitVec.ofNat 8 (if isLower n then n - 0x20 else n)) := by
  unfold charCode
  rw [if_neg hc, if_neg ho]
  split <;> rfl

theorem pressKey_of_code {k : Key} {code : Byte} (s : State) (h : k.code = some code) :
    s.pressKey k = s.injectKey code := by simp only [State.pressKey, h]

theorem pressKey_of_no_code {k : Key} (s : State) (h : k.code = none) : s.pressKey k = s := by
  simp only [State.pressKey, h]

@[simp] theorem typeText_nil (s : State) : s.typeText [] = s := rfl

@[simp] theorem typeText_cons (s : State) (c : Char) (text : List Char) :
    s.typeText (c :: text) = (s.pressKey (if c = '\n' then .enter else .char c)).typeText text := rfl

end Sys2Proof.Machine
end

