-- ==== Sys2Proof/Laws/PerInstr.lean ====
section
/-! SUPPORT. Statements made instruction by instruction. -/

namespace Sys2Proof.Laws

/-- An instruction has an encoding exactly if it is well-formed. -/
def Encodes.Statement (i : Instr) : Prop := (encode i).isSome = i.wf

theorem Encodes.lda (o : ReadOperand) : Encodes.Statement (.lda o) := by
  cases o with
  | mem m => cases m <;> rfl
  | _ => rfl

theorem Encodes.ldx (o : ReadOperand) : Encodes.Statement (.ldx o) := by
  cases o with
  | mem m => cases m <;> rfl
  | _ => rfl

theorem Encodes.ldy (o : ReadOperand) : Encodes.Statement (.ldy o) := by
  cases o with
  | mem m => cases m <;> rfl
  | _ => rfl

theorem Encodes.sta (m : MemOperand) : Encodes.Statement (.sta m) := by cases m <;> rfl

theorem Encodes.stx (m : MemOperand) : Encodes.Statement (.stx m) := by cases m <;> rfl

theorem Encodes.sty (m : MemOperand) : Encodes.Statement (.sty m) := by cases m <;> rfl

theorem Encodes.tax : Encodes.Statement .tax := rfl

theorem Encodes.tay : Encodes.Statement .tay := rfl

theorem Encodes.txa : Encodes.Statement .txa := rfl

theorem Encodes.tya : Encodes.Statement .tya := rfl

theorem Encodes.tsx : Encodes.Statement .tsx := rfl

theorem Encodes.txs : Encodes.Statement .txs := rfl

theorem Encodes.adc (o : ReadOperand) : Encodes.Statement (.adc o) := by
  cases o with
  | mem m => cases m <;> rfl
  | _ => rfl

theorem Encodes.sbc (o : ReadOperand) : Encodes.Statement (.sbc o) := by
  cases o with
  | mem m => cases m <;> rfl
  | _ => rfl

theorem Encodes.and (o : ReadOperand) : Encodes.Statement (.and o) := by
  cases o with
  | mem m => cases m <;> rfl
  | _ => rfl

theorem Encodes.ora (o : ReadOperand) : Encodes.Statement (.ora o) := by
  cases o with
  | mem m => cases m <;> rfl
  | _ => rfl

theorem Encodes.eor (o : ReadOperand) : Encodes.Statement (.eor o) := by
  cases o with
  | mem m => cases m <;> rfl
  | _ => rfl

theorem Encodes.bit (m : MemOperand) : Encodes.Statement (.bit m) := by cases m <;> rfl

theorem Encodes.cmp (o : ReadOperand) : Encodes.Statement (.cmp o) := by
  cases o with
  | mem m => cases m <;> rfl
  | _ => rfl

theorem Encodes.cpx (o : ReadOperand) : Encodes.Statement (.cpx o) := by
  cases o with
  | mem m => cases m <;> rfl
  | _ => rfl

theorem Encodes.cpy (o : ReadOperand) : Encodes.Statement (.cpy o) := by
  cases o with
  | mem m => cases m <;> rfl
  | _ => rfl

theorem Encodes.inc (m : MemOperand) : Encodes.Statement (.inc m) := by cases m <;> rfl

theorem Encodes.dec (m : MemOperand) : Encodes.Statement (.dec m) := by cases m <;> rfl

theorem Encodes.inx : Encodes.Statement .inx := rfl

theorem Encodes.iny : Encodes.Statement .iny := rfl

theorem Encodes.dex : Encodes.Statement .dex := rfl

theorem Encodes.dey : Encodes.Statement .dey := rfl

theorem Encodes.asl (o : ShiftOperand) : Encodes.Statement (.asl o) := by
  cases o with
  | mem m => cases m <;> rfl
  | _ => rfl

theorem Encodes.lsr (o : ShiftOperand) : Encodes.Statement (.lsr o) := by
  cases o with
  | mem m => cases m <;> rfl
  | _ => rfl

theorem Encodes.rol (o : ShiftOperand) : Encodes.Statement (.rol o) := by
  cases o with
  | mem m => cases m <;> rfl
  | _ => rfl

theorem Encodes.ror (o : ShiftOperand) : Encodes.Statement (.ror o) := by
  cases o with
  | mem m => cases m <;> rfl
  | _ => rfl

theorem Encodes.bcc (d : Byte) : Encodes.Statement (.bcc d) := rfl

theorem Encodes.bcs (d : Byte) : Encodes.Statement (.bcs d) := rfl

theorem Encodes.beq (d : Byte) : Encodes.Statement (.beq d) := rfl

theorem Encodes.bmi (d : Byte) : Encodes.Statement (.bmi d) := rfl

theorem Encodes.bne (d : Byte) : Encodes.Statement (.bne d) := rfl

theorem Encodes.bpl (d : Byte) : Encodes.Statement (.bpl d) := rfl

theorem Encodes.bvc (d : Byte) : Encodes.Statement (.bvc d) := rfl

theorem Encodes.bvs (d : Byte) : Encodes.Statement (.bvs d) := rfl

theorem Encodes.jmp (o : JumpOperand) : Encodes.Statement (.jmp o) := by cases o <;> rfl

theorem Encodes.jsr (target : Word) : Encodes.Statement (.jsr target) := rfl

theorem Encodes.rts : Encodes.Statement .rts := rfl

theorem Encodes.pha : Encodes.Statement .pha := rfl

theorem Encodes.php : Encodes.Statement .php := rfl

theorem Encodes.pla : Encodes.Statement .pla := rfl

theorem Encodes.plp : Encodes.Statement .plp := rfl

theorem Encodes.clc : Encodes.Statement .clc := rfl

theorem Encodes.sec : Encodes.Statement .sec := rfl

theorem Encodes.cli : Encodes.Statement .cli := rfl

theorem Encodes.sei : Encodes.Statement .sei := rfl

theorem Encodes.cld : Encodes.Statement .cld := rfl

theorem Encodes.sed : Encodes.Statement .sed := rfl

theorem Encodes.clv : Encodes.Statement .clv := rfl

theorem Encodes.nop : Encodes.Statement .nop := rfl

theorem Encodes.brk : Encodes.Statement .brk := rfl

theorem Encodes.rti : Encodes.Statement .rti := rfl

theorem Encodes.und (op : Byte) : Encodes.Statement (.und op) := by
  by_cases h : op ∈ undefinedOpcodes <;>
    simp [Encodes.Statement, encode, Instr.opcode, Instr.opcodes, Instr.wf, Instr.opcodeOk, Instr.mode,
      Instr.allowedModes, h]

/-- Every instruction: encodable exactly if well-formed. -/
theorem Encodes.all (i : Instr) : Encodes.Statement i := by
  cases i
  case lda o => exact Encodes.lda o
  case ldx o => exact Encodes.ldx o
  case ldy o => exact Encodes.ldy o
  case sta m => exact Encodes.sta m
  case stx m => exact Encodes.stx m
  case sty m => exact Encodes.sty m
  case tax => exact Encodes.tax
  case tay => exact Encodes.tay
  case txa => exact Encodes.txa
  case tya => exact Encodes.tya
  case tsx => exact Encodes.tsx
  case txs => exact Encodes.txs
  case adc o => exact Encodes.adc o
  case sbc o => exact Encodes.sbc o
  case and o => exact Encodes.and o
  case ora o => exact Encodes.ora o
  case eor o => exact Encodes.eor o
  case bit m => exact Encodes.bit m
  case cmp o => exact Encodes.cmp o
  case cpx o => exact Encodes.cpx o
  case cpy o => exact Encodes.cpy o
  case inc m => exact Encodes.inc m
  case dec m => exact Encodes.dec m
  case inx => exact Encodes.inx
  case iny => exact Encodes.iny
  case dex => exact Encodes.dex
  case dey => exact Encodes.dey
  case asl o => exact Encodes.asl o
  case lsr o => exact Encodes.lsr o
  case rol o => exact Encodes.rol o
  case ror o => exact Encodes.ror o
  case bcc d => exact Encodes.bcc d
  case bcs d => exact Encodes.bcs d
  case beq d => exact Encodes.beq d
  case bmi d => exact Encodes.bmi d
  case bne d => exact Encodes.bne d
  case bpl d => exact Encodes.bpl d
  case bvc d => exact Encodes.bvc d
  case bvs d => exact Encodes.bvs d
  case jmp o => exact Encodes.jmp o
  case jsr target => exact Encodes.jsr target
  case rts => exact Encodes.rts
  case pha => exact Encodes.pha
  case php => exact Encodes.php
  case pla => exact Encodes.pla
  case plp => exact Encodes.plp
  case clc => exact Encodes.clc
  case sec => exact Encodes.sec
  case cli => exact Encodes.cli
  case sei => exact Encodes.sei
  case cld => exact Encodes.cld
  case sed => exact Encodes.sed
  case clv => exact Encodes.clv
  case nop => exact Encodes.nop
  case brk => exact Encodes.brk
  case rti => exact Encodes.rti
  case und opcode => exact Encodes.und opcode

end Sys2Proof.Laws
end

