-- ==== Sys2Proof/Laws/Reset.lean ====
section
/-! SUPPORT. What the host's events leave: images of zeros are the empty array, registers and counters after
a reset. -/

namespace Sys2Proof.Machine

/-- An image of zeros lists nothing. -/
theorem Memory.ofBytes_zeros (n base : Nat) : Memory.ofBytes base (List.replicate n 0) = [] := by
  induction n generalizing base with
  | zero => rfl
  | succ n ih => exact ih (base + 1)

/-- What a reset leaves in the fields it does not compute from RAM (70 R322, R324). -/
theorem State.hostReset_fields (s : State) (fresh : List (Word × Byte)) :
    (s.hostReset fresh).a = 0 ∧ (s.hostReset fresh).x = 0 ∧ (s.hostReset fresh).y = 0 ∧
    (s.hostReset fresh).sp = s.cfg.spReset ∧ (s.hostReset fresh).p = 0x20 ∧
    (s.hostReset fresh).mem = Memory.writeAll (Memory.writeAll [] fresh) s.cfg.ramDefaults ∧
    (s.hostReset fresh).cycles = s.cycles ∧ (s.hostReset fresh).balance = s.balance ∧
    (s.hostReset fresh).ticks = s.ticks ∧ (s.hostReset fresh).roms = s.roms ∧
    (s.hostReset fresh).cfg = s.cfg := by
  simp [State.hostReset, State.resetRegisters]

/-- PC after a reset is the vector as the machine then reads it (70 R322). -/
theorem State.hostReset_pc (s : State) (fresh : List (Word × Byte)) :
    (s.hostReset fresh).pc = (s.hostReset fresh).read16 s.cfg.resetVector := by
  have h : ∀ (t : State) (w : Word) (b : Word), (t.withPc w).read16 b = t.read16 b := fun _ _ _ => rfl
  simp [State.hostReset, State.resetRegisters, h]

end Sys2Proof.Machine
end

