-- ==== Sys2Proof/Laws/Video.lean ====
section
/-! SUPPORT. What the loops of the compositor leave at one pixel. -/

namespace Sys2Proof.Machine

/-- A loop none of whose rounds touches a pixel leaves it. -/
theorem Canvas.fold_none (f : Canvas → Nat → Canvas) (y x n : Nat) (buf : Canvas)
    (h : ∀ c < n, ∀ b, f b c y x = b y x) : (List.range n).foldl f buf y x = buf y x := by
  induction n with
  | zero => rfl
  | succ n ih =>
    rw [List.range_succ, List.foldl_append]
    simp only [List.foldl_cons, List.foldl_nil]
    rw [h n (by omega), ih (fun c hc => h c (by omega))]

/-- A loop exactly one of whose rounds touches a pixel does to it what that round does. -/
theorem Canvas.fold_at (f : Canvas → Nat → Canvas) (g : Rgb → Rgb) (y x n c0 : Nat) (buf : Canvas) (hc : c0 < n)
    (h0 : ∀ b, f b c0 y x = g (b y x)) (h : ∀ c < n, c ≠ c0 → ∀ b, f b c y x = b y x) :
    (List.range n).foldl f buf y x = g (buf y x) := by
  induction n with
  | zero => omega
  | succ n ih =>
    rw [List.range_succ, List.foldl_append]
    simp only [List.foldl_cons, List.foldl_nil]
    by_cases e : n = c0
    · subst e
      rw [h0, Canvas.fold_none f y x n buf (fun c hc => h c (by omega) (by omega))]
    · rw [h n (by omega) e, ih (by omega) (fun c hc => h c (by omega))]

/-- One round of the innermost loop, at one pixel (R295). -/
theorem State.drawPixel_at (s : State) (row col r : Nat) (b : Canvas) (c y x : Nat) :
    s.drawPixel row col r b c y x =
      if y = s.cfg.innerY0 + row * 8 + r ∧ x = s.cfg.innerX0 + col * 8 + c ∧
          (s.glyphRow (s.cellCode (row * 40 + col)) r).getLsbD (7 - c) then s.cellColour (row * 40 + col)
      else b y x := by
  unfold State.drawPixel plot
  split <;> simp_all

end Sys2Proof.Machine
end

