-- ==== Sys2Proof/Tests/Slice0.lean ====
section
/-! SUPPORT. The model's own tests: ill-formed terms that WellFormed refuses, words written out from the
spec's encodings, one step of each instruction (expected results from spec 95_test_vectors.md, whose vector
each test names), the bus, the addressing modes, the events, and, for every obligation with hypotheses, a
state and operands that meet them. -/

namespace Sys2Proof.Tests

open Sys2Proof Sys2Proof.Machine

/-! ## Helpers -/

/-- The vector machine of 95_test_vectors.md with PC, some RAM bytes and the code at PC replaced. -/
def place (pc : Word) (cells : List (Word × Byte)) (code : List Byte) : State :=
  (State.reset.withPc pc).withMem
    (Memory.writeAll (Memory.writeAll State.reset.mem cells)
      (code.zipIdx.map fun c => (pc + BitVec.ofNat 16 c.2, c.1)))

/-- What `f` reads in the state a step answers. -/
def after {α : Type} (r : Result) (f : State → α) : Option α :=
  match r with
  | .next t => some (f t)
  | .fault _ => none
  | .refused _ => none

/-- What a vector's "End" column shows of the registers, and its cycle count. -/
structure Registers where
  a : Byte
  x : Byte
  y : Byte
  sp : Byte
  p : Byte
  pc : Word
  cycles : Nat
  deriving DecidableEq, Repr

/-- The registers and the cycle count of a state. -/
def registers (t : State) : Registers := ⟨t.a, t.x, t.y, t.sp, t.p, t.pc, t.cycles⟩

/-! ## Well-formedness: a refused term for each check -/

/-- R131: an operand form the mnemonic does not have, for each kind of operand. -/
theorem test_wf_refuses_forms :
    (Instr.lda (.mem (.zpy 0))).wf = false ∧ (Instr.ldx (.mem (.zpx 0))).wf = false ∧
    (Instr.ldy (.mem (.aby 0))).wf = false ∧ (Instr.sta (.zpy 0)).wf = false ∧ (Instr.stx (.abx 0)).wf = false ∧
    (Instr.sty (.izy 0)).wf = false ∧ (Instr.bit (.zpx 0)).wf = false ∧ (Instr.cpx (.mem (.zpx 0))).wf = false ∧
    (Instr.cpy (.mem (.abx 0))).wf = false ∧ (Instr.inc (.aby 0)).wf = false ∧ (Instr.dec (.izx 0)).wf = false ∧
    (Instr.asl (.mem (.aby 0))).wf = false ∧ (Instr.ror (.mem (.izy 0))).wf = false := by decide

/-- R132: an `und` that carries a documented opcode. -/
theorem test_wf_refuses_und : (Instr.und 0xEA).wf = false ∧ (Instr.und 0x00).wf = false := by decide

/-- R131: an ill-formed instruction has no encoding, a well-formed one has. -/
theorem test_encode_only_wf :
    encode (.sta (.zpy 0)) = none ∧ encode (.und 0xEA) = none ∧ (Instr.und 0xFF).wf = true ∧
    encode (.lda (.mem (.abx 0x1234))) = some [0xBD, 0x34, 0x12] := by decide

/-! ## Decoding: an opcode byte of every constructor, bit by bit from R130 -/

theorem test_decode_load_store :
    decode [0b10101001, 0x12] = .ok (.lda (.imm 0x12), []) ∧
    decode [0b10110110, 0x12] = .ok (.ldx (.mem (.zpy 0x12)), []) ∧
    decode [0b10111100, 0x34, 0x12] = .ok (.ldy (.mem (.abx 0x1234)), []) ∧
    decode [0b10000001, 0x12] = .ok (.sta (.izx 0x12), []) ∧
    decode [0b10010110, 0x12] = .ok (.stx (.zpy 0x12), []) ∧
    decode [0b10001100, 0x34, 0x12] = .ok (.sty (.abs 0x1234), []) := by decide

theorem test_decode_transfers :
    decode [0b10101010] = .ok (.tax, []) ∧ decode [0b10101000] = .ok (.tay, []) ∧
    decode [0b10001010] = .ok (.txa, []) ∧ decode [0b10011000] = .ok (.tya, []) ∧
    decode [0b10111010] = .ok (.tsx, []) ∧ decode [0b10011010] = .ok (.txs, []) := by decide

theorem test_decode_arithmetic :
    decode [0b01110001, 0x12] = .ok (.adc (.mem (.izy 0x12)), []) ∧
    decode [0b11111001, 0x34, 0x12] = .ok (.sbc (.mem (.aby 0x1234)), []) ∧
    decode [0b00110101, 0x12] = .ok (.and (.mem (.zpx 0x12)), []) ∧
    decode [0b00000101, 0x12] = .ok (.ora (.mem (.zp 0x12)), []) ∧
    decode [0b01001101, 0x34, 0x12] = .ok (.eor (.mem (.abs 0x1234)), []) ∧
    decode [0b00100100, 0x12] = .ok (.bit (.zp 0x12), []) ∧
    decode [0b11000001, 0x12] = .ok (.cmp (.mem (.izx 0x12)), []) ∧
    decode [0b11100000, 0x12] = .ok (.cpx (.imm 0x12), []) ∧
    decode [0b11001100, 0x34, 0x12] = .ok (.cpy (.mem (.abs 0x1234)), []) := by decide

theorem test_decode_counting :
    decode [0b11110110, 0x12] = .ok (.inc (.zpx 0x12), []) ∧
    decode [0b11011110, 0x34, 0x12] = .ok (.dec (.abx 0x1234), []) ∧
    decode [0b11101000] = .ok (.inx, []) ∧ decode [0b11001000] = .ok (.iny, []) ∧
    decode [0b11001010] = .ok (.dex, []) ∧ decode [0b10001000] = .ok (.dey, []) := by decide

theorem test_decode_shifts :
    decode [0b00001010] = .ok (.asl .acc, []) ∧ decode [0b01000110, 0x12] = .ok (.lsr (.mem (.zp 0x12)), []) ∧
    decode [0b00111110, 0x34, 0x12] = .ok (.rol (.mem (.abx 0x1234)), []) ∧
    decode [0b01101010] = .ok (.ror .acc, []) := by decide

theorem test_decode_control :
    decode [0b10010000, 0x12] = .ok (.bcc 0x12, []) ∧ decode [0b10110000, 0x12] = .ok (.bcs 0x12, []) ∧
    decode [0b11110000, 0x12] = .ok (.beq 0x12, []) ∧ decode [0b00110000, 0x12] = .ok (.bmi 0x12, []) ∧
    decode [0b11010000, 0x12] = .ok (.bne 0x12, []) ∧ decode [0b00010000, 0x12] = .ok (.bpl 0x12, []) ∧
    decode [0b01010000, 0x12] = .ok (.bvc 0x12, []) ∧ decode [0b01110000, 0x12] = .ok (.bvs 0x12, []) := by decide

theorem test_decode_jumps :
    decode [0b01001100, 0x34, 0x12] = .ok (.jmp (.abs 0x1234), []) ∧
    decode [0b01101100, 0x34, 0x12] = .ok (.jmp (.ind 0x1234), []) ∧
    decode [0b00100000, 0x34, 0x12] = .ok (.jsr 0x1234, []) ∧ decode [0b01100000] = .ok (.rts, []) := by decide

theorem test_decode_system :
    decode [0b01001000] = .ok (.pha, []) ∧ decode [0b00001000] = .ok (.php, []) ∧
    decode [0b01101000] = .ok (.pla, []) ∧ decode [0b00101000] = .ok (.plp, []) ∧
    decode [0b00011000] = .ok (.clc, []) ∧ decode [0b00111000] = .ok (.sec, []) ∧
    decode [0b00000000] = .ok (.brk, []) ∧ decode [0b01000000] = .ok (.rti, []) := by decide

theorem test_decode_flags :
    decode [0b01011000] = .ok (.cli, []) ∧ decode [0b01111000] = .ok (.sei, []) ∧
    decode [0b11011000] = .ok (.cld, []) ∧ decode [0b11111000] = .ok (.sed, []) ∧
    decode [0b10111000] = .ok (.clv, []) ∧ decode [0b11101010] = .ok (.nop, []) ∧
    decode [0b10000000, 0b10001001] = .ok (.und 0x80, [0x89]) := by decide

/-- A list too short for the opcode's operands is refused by name (R110). -/
theorem test_decode_refuses_short : decode [] = .error .noOpcode ∧ decode [0xAD, 0x34] = .error .missingOperandBytes := by
  decide

/-- The host's numbering: the first byte is bits 7 to 0. -/
theorem test_decodeTableWord :
    decodeTableWord 24 0x1234AD = some (.lda (.mem (.abs 0x1234))) ∧ decodeTableWord 8 0x40 = some .rti := by decide

/-- `withFetchWord` makes the very next step from reset run the instruction. -/
theorem test_withFetchWord :
    after (step (State.reset.withFetchWord 16 0x80A9)) registers = some ⟨0x80, 0, 0, 0, 0xA0, 0x0002, 2⟩ ∧
    after (step (State.reset.withFetchWord 24 0xC0004C)) registers = some ⟨0, 0, 0, 0, 0x20, 0xC000, 3⟩ := by decide

/-! ## One step of each instruction (95_test_vectors.md, parts 2 to 6) -/

/-- LDA #$80, V2. -/
theorem test_lda_v2 : after (step (place 0x1000 [] [0xA9, 0x80])) registers =
    some ⟨0x80, 0x00, 0x00, 0x00, 0xA0, 0x1002, 2⟩ := by decide

/-- LDA $F0,X, V4. -/
theorem test_lda_v4 : after (step ((place 0x1000 [(0x0010, 0x99), (0x0110, 0x11)] [0xB5, 0xF0]).withX 0x20)) registers =
    some ⟨0x99, 0x20, 0x00, 0x00, 0xA0, 0x1002, 4⟩ := by decide

/-- LDX #$FF, V11. -/
theorem test_ldx_v11 : after (step (place 0x1000 [] [0xA2, 0xFF])) registers =
    some ⟨0x00, 0xFF, 0x00, 0x00, 0xA0, 0x1002, 2⟩ := by decide

/-- LDX $F0,Y, V12. -/
theorem test_ldx_v12 : after (step ((place 0x1000 [(0x0001, 0x37)] [0xB6, 0xF0]).withY 0x11)) registers =
    some ⟨0x00, 0x37, 0x11, 0x00, 0x20, 0x1002, 4⟩ := by decide

/-- LDY #$7F, V14. -/
theorem test_ldy_v14 : after (step (place 0x1000 [] [0xA0, 0x7F])) registers =
    some ⟨0x00, 0x00, 0x7F, 0x00, 0x20, 0x1002, 2⟩ := by decide

/-- LDY $3000,X, V16. -/
theorem test_ldy_v16 : after (step ((place 0x1000 [(0x30FF, 0x01)] [0xBC, 0x00, 0x30]).withX 0xFF)) registers =
    some ⟨0x00, 0xFF, 0x01, 0x00, 0x20, 0x1003, 4⟩ := by decide

/-- STA $10, V17. -/
theorem test_sta_v17 :
    after (step (((place 0x1000 [] [0x85, 0x10]).withA 0xAB).withP 0x22)) (fun t => (registers t, t.ram 0x0010)) =
    some (⟨0xAB, 0x00, 0x00, 0x00, 0x22, 0x1002, 3⟩, 0xAB) := by decide

/-- STA $10,X, V22. -/
theorem test_sta_v22 :
    after (step (((place 0x1000 [] [0x95, 0x10]).withA 0x05).withX 0xF0)) (fun t => (registers t, t.ram 0x0000)) =
    some (⟨0x05, 0xF0, 0x00, 0x00, 0x20, 0x1002, 4⟩, 0x05) := by decide

/-- STX $10,Y, V24. -/
theorem test_stx_v24 :
    after (step (((place 0x1000 [] [0x96, 0x10]).withX 0x98).withY 0x01)) (fun t => (registers t, t.ram 0x0011)) =
    some (⟨0x00, 0x98, 0x01, 0x00, 0x20, 0x1002, 4⟩, 0x98) := by decide

/-- STX $4000, V25. -/
theorem test_stx_v25 :
    after (step ((place 0x1000 [] [0x8E, 0x00, 0x40]).withX 0x97)) (fun t => (registers t, t.ram 0x4000)) =
    some (⟨0x00, 0x97, 0x00, 0x00, 0x20, 0x1003, 4⟩, 0x97) := by decide

/-- STY $10,X, V27. -/
theorem test_sty_v27 :
    after (step (((place 0x1000 [] [0x94, 0x10]).withX 0x02).withY 0x76)) (fun t => (registers t, t.ram 0x0012)) =
    some (⟨0x00, 0x02, 0x76, 0x00, 0x20, 0x1002, 4⟩, 0x76) := by decide

/-- STY $4000, V28. -/
theorem test_sty_v28 :
    after (step ((place 0x1000 [] [0x8C, 0x00, 0x40]).withY 0x75)) (fun t => (registers t, t.ram 0x4000)) =
    some (⟨0x00, 0x00, 0x75, 0x00, 0x20, 0x1003, 4⟩, 0x75) := by decide

/-- TAX, V29. -/
theorem test_tax_v29 : after (step ((place 0x1000 [] [0xAA]).withA 0x80)) registers =
    some ⟨0x80, 0x80, 0x00, 0x00, 0xA0, 0x1001, 2⟩ := by decide

/-- TAY, V30. -/
theorem test_tay_v30 : after (step (((place 0x1000 [] [0xA8]).withA 0x00).withY 0x11)) registers =
    some ⟨0x00, 0x00, 0x00, 0x00, 0x22, 0x1001, 2⟩ := by decide

/-- TXA, V31. -/
theorem test_txa_v31 : after (step ((((place 0x1000 [] [0x8A]).withA 0xFF).withX 0x7F).withP 0xA0)) registers =
    some ⟨0x7F, 0x7F, 0x00, 0x00, 0x20, 0x1001, 2⟩ := by decide

/-- TYA, V32. -/
theorem test_tya_v32 : after (step ((place 0x1000 [] [0x98]).withY 0xFF)) registers =
    some ⟨0xFF, 0x00, 0xFF, 0x00, 0xA0, 0x1001, 2⟩ := by decide

/-- TSX, V33. -/
theorem test_tsx_v33 : after (step (((place 0x1000 [] [0xBA]).withX 0x55).withSp 0x00)) registers =
    some ⟨0x00, 0x00, 0x00, 0x00, 0x22, 0x1001, 2⟩ := by decide

/-- TXS, V34. -/
theorem test_txs_v34 : after (step (((place 0x1000 [] [0x9A]).withX 0xFF).withP 0x22)) registers =
    some ⟨0x00, 0xFF, 0x00, 0xFF, 0x22, 0x1001, 2⟩ := by decide

/-- ADC #$00, V37. -/
theorem test_adc_v37 : after (step (((place 0x1000 [] [0x69, 0x00]).withA 0x7F).withP 0x21)) registers =
    some ⟨0x80, 0x00, 0x00, 0x00, 0xE0, 0x1002, 2⟩ := by decide

/-- ADC #$01, V40. -/
theorem test_adc_v40 : after (step (((place 0x1000 [] [0x69, 0x01]).withA 0x09).withP 0x28)) registers =
    some ⟨0x0A, 0x00, 0x00, 0x00, 0x28, 0x1002, 2⟩ := by decide

/-- SBC #$01, V43. -/
theorem test_sbc_v43 : after (step (((place 0x1000 [] [0xE9, 0x01]).withA 0x00).withP 0x21)) registers =
    some ⟨0xFF, 0x00, 0x00, 0x00, 0xA0, 0x1002, 2⟩ := by decide

/-- SBC #$01, V44. -/
theorem test_sbc_v44 : after (step (((place 0x1000 [] [0xE9, 0x01]).withA 0x80).withP 0x21)) registers =
    some ⟨0x7F, 0x00, 0x00, 0x00, 0x61, 0x1002, 2⟩ := by decide

/-- AND #$3C, V48. -/
theorem test_and_v48 : after (step ((place 0x1000 [] [0x29, 0x3C]).withA 0xF0)) registers =
    some ⟨0x30, 0x00, 0x00, 0x00, 0x20, 0x1002, 2⟩ := by decide

/-- AND $10, V49. -/
theorem test_and_v49 : after (step (((place 0x1000 [(0x0010, 0x00)] [0x25, 0x10]).withA 0xFF).withP 0xE1)) registers =
    some ⟨0x00, 0x00, 0x00, 0x00, 0x63, 0x1002, 3⟩ := by decide

/-- ORA #$80, V50. -/
theorem test_ora_v50 : after (step ((place 0x1000 [] [0x09, 0x80]).withA 0x0F)) registers =
    some ⟨0x8F, 0x00, 0x00, 0x00, 0xA0, 0x1002, 2⟩ := by decide

/-- ORA ($10),Y, V51. -/
theorem test_ora_v51 : after (step (((place 0x1000 [(0x0010, 0x00), (0x0011, 0x50), (0x5002, 0x00)] [0x11, 0x10]).withA 0x00).withY 0x02)) registers =
    some ⟨0x00, 0x00, 0x02, 0x00, 0x22, 0x1002, 5⟩ := by decide

/-- EOR #$AA, V52. -/
theorem test_eor_v52 : after (step ((place 0x1000 [] [0x49, 0xAA]).withA 0xAA)) registers =
    some ⟨0x00, 0x00, 0x00, 0x00, 0x22, 0x1002, 2⟩ := by decide

/-- EOR #$FF, V53. -/
theorem test_eor_v53 : after (step ((place 0x1000 [] [0x49, 0xFF]).withA 0x0F)) registers =
    some ⟨0xF0, 0x00, 0x00, 0x00, 0xA0, 0x1002, 2⟩ := by decide

/-- BIT $10, V54. -/
theorem test_bit_v54 : after (step ((place 0x1000 [(0x0010, 0xC0)] [0x24, 0x10]).withA 0x01)) registers =
    some ⟨0x01, 0x00, 0x00, 0x00, 0xE2, 0x1002, 3⟩ := by decide

/-- BIT $2000, V55. -/
theorem test_bit_v55 : after (step (((place 0x1000 [(0x2000, 0x3F)] [0x2C, 0x00, 0x20]).withA 0xFF).withP 0xE3)) registers =
    some ⟨0xFF, 0x00, 0x00, 0x00, 0x21, 0x1003, 4⟩ := by decide

/-- CMP #$40, V56. -/
theorem test_cmp_v56 : after (step ((place 0x1000 [] [0xC9, 0x40]).withA 0x40)) registers =
    some ⟨0x40, 0x00, 0x00, 0x00, 0x23, 0x1002, 2⟩ := by decide

/-- CMP #$01, V57. -/
theorem test_cmp_v57 : after (step (((place 0x1000 [] [0xC9, 0x01]).withA 0x80).withP 0x60)) registers =
    some ⟨0x80, 0x00, 0x00, 0x00, 0x61, 0x1002, 2⟩ := by decide

/-- CPX #$0A, V59. -/
theorem test_cpx_v59 : after (step ((place 0x1000 [] [0xE0, 0x0A]).withX 0x05)) registers =
    some ⟨0x00, 0x05, 0x00, 0x00, 0xA0, 0x1002, 2⟩ := by decide

/-- CPX $10, V60. -/
theorem test_cpx_v60 : after (step ((place 0x1000 [(0x0010, 0x7F)] [0xE4, 0x10]).withX 0x80)) registers =
    some ⟨0x00, 0x80, 0x00, 0x00, 0x21, 0x1002, 3⟩ := by decide

/-- CPY #$28, V61. -/
theorem test_cpy_v61 : after (step ((place 0x1000 [] [0xC0, 0x28]).withY 0x28)) registers =
    some ⟨0x00, 0x00, 0x28, 0x00, 0x23, 0x1002, 2⟩ := by decide

/-- CPY $2000, V62. -/
theorem test_cpy_v62 : after (step ((place 0x1000 [(0x2000, 0x01)] [0xCC, 0x00, 0x20]).withY 0x00)) registers =
    some ⟨0x00, 0x00, 0x00, 0x00, 0xA0, 0x1003, 4⟩ := by decide

/-- INC $C6, V63. -/
theorem test_inc_v63 :
    after (step (place 0x1000 [(0x00C6, 0x09)] [0xE6, 0xC6])) (fun t => (registers t, t.ram 0x00C6)) =
    some (⟨0x00, 0x00, 0x00, 0x00, 0x20, 0x1002, 5⟩, 0x0A) := by decide

/-- INC $2000,X, V64. -/
theorem test_inc_v64 :
    after (step (((place 0x1000 [(0x2001, 0xFF)] [0xFE, 0x00, 0x20]).withX 0x01).withP 0x61)) (fun t => (registers t, t.ram 0x2001)) =
    some (⟨0x00, 0x01, 0x00, 0x00, 0x63, 0x1003, 7⟩, 0x00) := by decide

/-- DEC $C6, V66. -/
theorem test_dec_v66 :
    after (step (place 0x1000 [(0x00C6, 0x01)] [0xC6, 0xC6])) (fun t => (registers t, t.ram 0x00C6)) =
    some (⟨0x00, 0x00, 0x00, 0x00, 0x22, 0x1002, 5⟩, 0x00) := by decide

/-- DEC $10,X, V67. -/
theorem test_dec_v67 :
    after (step ((place 0x1000 [(0x0011, 0x00)] [0xD6, 0x10]).withX 0x01)) (fun t => (registers t, t.ram 0x0011)) =
    some (⟨0x00, 0x01, 0x00, 0x00, 0xA0, 0x1002, 6⟩, 0xFF) := by decide

/-- INX, V69. -/
theorem test_inx_v69 : after (step ((place 0x1000 [] [0xE8]).withX 0xFF)) registers =
    some ⟨0x00, 0x00, 0x00, 0x00, 0x22, 0x1001, 2⟩ := by decide

/-- INY, V70. -/
theorem test_iny_v70 : after (step ((place 0x1000 [] [0xC8]).withY 0x7F)) registers =
    some ⟨0x00, 0x00, 0x80, 0x00, 0xA0, 0x1001, 2⟩ := by decide

/-- DEX, V71. -/
theorem test_dex_v71 : after (step ((place 0x1000 [] [0xCA]).withX 0x00)) registers =
    some ⟨0x00, 0xFF, 0x00, 0x00, 0xA0, 0x1001, 2⟩ := by decide

/-- DEY, V72. -/
theorem test_dey_v72 : after (step ((place 0x1000 [] [0x88]).withY 0x01)) registers =
    some ⟨0x00, 0x00, 0x00, 0x00, 0x22, 0x1001, 2⟩ := by decide

/-- ASL $10, V75. -/
theorem test_asl_v75 :
    after (step (place 0x1000 [(0x0010, 0x80)] [0x06, 0x10])) (fun t => (registers t, t.ram 0x0010)) =
    some (⟨0x00, 0x00, 0x00, 0x00, 0x23, 0x1002, 5⟩, 0x00) := by decide

/-- ASL A, V74. -/
theorem test_asl_v74 : after (step (((place 0x1000 [] [0x0A]).withA 0x40).withP 0x21)) registers =
    some ⟨0x80, 0x00, 0x00, 0x00, 0xA0, 0x1001, 2⟩ := by decide

/-- LSR A, V78. -/
theorem test_lsr_v78 : after (step (((place 0x1000 [] [0x4A]).withA 0xFF).withP 0xA0)) registers =
    some ⟨0x7F, 0x00, 0x00, 0x00, 0x21, 0x1001, 2⟩ := by decide

/-- LSR $10,X, V79. -/
theorem test_lsr_v79 :
    after (step ((place 0x1000 [(0x0011, 0x02)] [0x56, 0x10]).withX 0x01)) (fun t => (registers t, t.ram 0x0011)) =
    some (⟨0x00, 0x01, 0x00, 0x00, 0x20, 0x1002, 6⟩, 0x01) := by decide

/-- ROL A, V80. -/
theorem test_rol_v80 : after (step (((place 0x1000 [] [0x2A]).withA 0x80).withP 0x21)) registers =
    some ⟨0x01, 0x00, 0x00, 0x00, 0x21, 0x1001, 2⟩ := by decide

/-- ROL $2000, V82. -/
theorem test_rol_v82 :
    after (step ((place 0x1000 [(0x2000, 0xFF)] [0x2E, 0x00, 0x20]).withP 0x20)) (fun t => (registers t, t.ram 0x2000)) =
    some (⟨0x00, 0x00, 0x00, 0x00, 0xA1, 0x1003, 6⟩, 0xFE) := by decide

/-- ROR A, V83. -/
theorem test_ror_v83 : after (step (((place 0x1000 [] [0x6A]).withA 0x01).withP 0x21)) registers =
    some ⟨0x80, 0x00, 0x00, 0x00, 0xA1, 0x1001, 2⟩ := by decide

/-- ROR $10, V85. -/
theorem test_ror_v85 :
    after (step ((place 0x1000 [(0x0010, 0x00)] [0x66, 0x10]).withP 0x21)) (fun t => (registers t, t.ram 0x0010)) =
    some (⟨0x00, 0x00, 0x00, 0x00, 0xA0, 0x1002, 5⟩, 0x80) := by decide

/-- BCC *+4, V87. -/
theorem test_bcc_v87 : after (step (place 0x1000 [] [0x90, 0x02])) registers =
    some ⟨0x00, 0x00, 0x00, 0x00, 0x20, 0x1004, 3⟩ := by decide

/-- BCC *+4, V88. -/
theorem test_bcc_v88 : after (step ((place 0x1000 [] [0x90, 0x02]).withP 0x21)) registers =
    some ⟨0x00, 0x00, 0x00, 0x00, 0x21, 0x1002, 2⟩ := by decide

/-- BCS *+18, V89. -/
theorem test_bcs_v89 : after (step ((place 0x1000 [] [0xB0, 0x10]).withP 0x21)) registers =
    some ⟨0x00, 0x00, 0x00, 0x00, 0x21, 0x1012, 3⟩ := by decide

/-- BEQ $1112, V90. -/
theorem test_beq_v90 : after (step ((place 0x10F0 [] [0xF0, 0x20]).withP 0x22)) registers =
    some ⟨0x00, 0x00, 0x00, 0x00, 0x22, 0x1112, 4⟩ := by decide

/-- BEQ $1112, V91. -/
theorem test_beq_v91 : after (step ((place 0x10F0 [] [0xF0, 0x20]).withP 0x20)) registers =
    some ⟨0x00, 0x00, 0x00, 0x00, 0x20, 0x10F2, 2⟩ := by decide

/-- BMI $1FFE, V92. -/
theorem test_bmi_v92 : after (step ((place 0x2000 [] [0x30, 0xFC]).withP 0xA0)) registers =
    some ⟨0x00, 0x00, 0x00, 0x00, 0xA0, 0x1FFE, 4⟩ := by decide

/-- BNE $1002, V93. -/
theorem test_bne_v93 : after (step ((place 0x1005 [] [0xD0, 0xFB]).withP 0x20)) registers =
    some ⟨0x00, 0x00, 0x00, 0x00, 0x20, 0x1002, 3⟩ := by decide

/-- BNE *, V99. -/
theorem test_bne_v99 : after (step (place 0x1000 [] [0xD0, 0xFE])) registers =
    some ⟨0x00, 0x00, 0x00, 0x00, 0x20, 0x1000, 3⟩ := by decide

/-- BPL $1081, V94. -/
theorem test_bpl_v94 : after (step (place 0x1000 [] [0x10, 0x7F])) registers =
    some ⟨0x00, 0x00, 0x00, 0x00, 0x20, 0x1081, 3⟩ := by decide

/-- BPL $0F82, V95. -/
theorem test_bpl_v95 : after (step (place 0x1000 [] [0x10, 0x80])) registers =
    some ⟨0x00, 0x00, 0x00, 0x00, 0x20, 0x0F82, 4⟩ := by decide

/-- BVC *+2, V96. -/
theorem test_bvc_v96 : after (step (place 0x1000 [] [0x50, 0x00])) registers =
    some ⟨0x00, 0x00, 0x00, 0x00, 0x20, 0x1002, 3⟩ := by decide

/-- BVS $1007, V97. -/
theorem test_bvs_v97 : after (step (place 0x1000 [] [0x70, 0x05])) registers =
    some ⟨0x00, 0x00, 0x00, 0x00, 0x20, 0x1002, 2⟩ := by decide

/-- BVS $1007, V98. -/
theorem test_bvs_v98 : after (step ((place 0x1000 [] [0x70, 0x05]).withP 0x60)) registers =
    some ⟨0x00, 0x00, 0x00, 0x00, 0x60, 0x1007, 3⟩ := by decide

/-- JMP ($0314), V103. -/
theorem test_jmp_v103 : after (step (place 0x1000 [(0x0314, 0x31), (0x0315, 0xEA)] [0x6C, 0x14, 0x03])) registers =
    some ⟨0x00, 0x00, 0x00, 0x00, 0x20, 0xEA31, 5⟩ := by decide

/-- JMP ($02FF), V104. -/
theorem test_jmp_v104 : after (step (place 0x1000 [(0x0200, 0x12), (0x02FF, 0x34), (0x0300, 0x56)] [0x6C, 0xFF, 0x02])) registers =
    some ⟨0x00, 0x00, 0x00, 0x00, 0x20, 0x1234, 5⟩ := by decide

/-- JSR $1234, V105. -/
theorem test_jsr_v105 :
    after (step ((place 0xC000 [] [0x20, 0x34, 0x12]).withSp 0xFF)) (fun t => (registers t, t.ram 0x01FE, t.ram 0x01FF)) =
    some (⟨0x00, 0x00, 0x00, 0xFD, 0x20, 0x1234, 6⟩, 0x02, 0xC0) := by decide

/-- JSR $2000, V106. -/
theorem test_jsr_v106 :
    after (step ((place 0x1000 [] [0x20, 0x00, 0x20]).withSp 0x00)) (fun t => (registers t, t.ram 0x0100, t.ram 0x01FF)) =
    some (⟨0x00, 0x00, 0x00, 0xFE, 0x20, 0x2000, 6⟩, 0x10, 0x02) := by decide

/-- RTS, V107. -/
theorem test_rts_v107 : after (step ((place 0x1234 [(0x01FE, 0x02), (0x01FF, 0xC0)] [0x60]).withSp 0xFD)) registers =
    some ⟨0x00, 0x00, 0x00, 0xFF, 0x20, 0xC003, 6⟩ := by decide

/-- RTS, V108. -/
theorem test_rts_v108 : after (step ((place 0x1000 [(0x0100, 0xFF), (0x01FF, 0xFF)] [0x60]).withSp 0xFE)) registers =
    some ⟨0x00, 0x00, 0x00, 0x00, 0x20, 0x0000, 6⟩ := by decide

/-- PHA, V109. -/
theorem test_pha_v109 :
    after (step (((place 0x1000 [] [0x48]).withA 0x42).withSp 0xFF)) (fun t => (registers t, t.ram 0x01FF)) =
    some (⟨0x42, 0x00, 0x00, 0xFE, 0x20, 0x1001, 3⟩, 0x42) := by decide

/-- PHA, V110. -/
theorem test_pha_v110 :
    after (step (((place 0x1000 [] [0x48]).withA 0x43).withSp 0x00)) (fun t => (registers t, t.ram 0x0100)) =
    some (⟨0x43, 0x00, 0x00, 0xFF, 0x20, 0x1001, 3⟩, 0x43) := by decide

/-- PHP, V111. -/
theorem test_php_v111 :
    after (step (((place 0x1000 [] [0x08]).withSp 0xFF).withP 0x20)) (fun t => (registers t, t.ram 0x01FF)) =
    some (⟨0x00, 0x00, 0x00, 0xFE, 0x20, 0x1001, 3⟩, 0x30) := by decide

/-- PHP, V112. -/
theorem test_php_v112 :
    after (step (((place 0x1000 [] [0x08]).withSp 0xFF).withP 0xE3)) (fun t => (registers t, t.ram 0x01FF)) =
    some (⟨0x00, 0x00, 0x00, 0xFE, 0xE3, 0x1001, 3⟩, 0xF3) := by decide

/-- PLA, V113. -/
theorem test_pla_v113 : after (step (((place 0x1000 [(0x01FF, 0x00)] [0x68]).withA 0x55).withSp 0xFE)) registers =
    some ⟨0x00, 0x00, 0x00, 0xFF, 0x22, 0x1001, 4⟩ := by decide

/-- PLA, V114. -/
theorem test_pla_v114 : after (step ((place 0x1000 [(0x0100, 0x80)] [0x68]).withSp 0xFF)) registers =
    some ⟨0x80, 0x00, 0x00, 0x00, 0xA0, 0x1001, 4⟩ := by decide

/-- PLP, V115. -/
theorem test_plp_v115 : after (step ((place 0x1000 [(0x01FF, 0xFF)] [0x28]).withSp 0xFE)) registers =
    some ⟨0x00, 0x00, 0x00, 0xFF, 0xEF, 0x1001, 4⟩ := by decide

/-- PLP, V116. -/
theorem test_plp_v116 : after (step (((place 0x1000 [(0x01FF, 0x00)] [0x28]).withSp 0xFE).withP 0xEF)) registers =
    some ⟨0x00, 0x00, 0x00, 0xFF, 0x20, 0x1001, 4⟩ := by decide

/-- CLC, V117. -/
theorem test_clc_v117 : after (step ((place 0x1000 [] [0x18]).withP 0x21)) registers =
    some ⟨0x00, 0x00, 0x00, 0x00, 0x20, 0x1001, 2⟩ := by decide

/-- SEC, V118. -/
theorem test_sec_v118 : after (step (place 0x1000 [] [0x38])) registers =
    some ⟨0x00, 0x00, 0x00, 0x00, 0x21, 0x1001, 2⟩ := by decide

/-- CLI, V119. -/
theorem test_cli_v119 : after (step ((place 0x1000 [] [0x58]).withP 0x24)) registers =
    some ⟨0x00, 0x00, 0x00, 0x00, 0x20, 0x1001, 2⟩ := by decide

/-- SEI, V120. -/
theorem test_sei_v120 : after (step (place 0x1000 [] [0x78])) registers =
    some ⟨0x00, 0x00, 0x00, 0x00, 0x24, 0x1001, 2⟩ := by decide

/-- CLD, V121. -/
theorem test_cld_v121 : after (step ((place 0x1000 [] [0xD8]).withP 0x28)) registers =
    some ⟨0x00, 0x00, 0x00, 0x00, 0x20, 0x1001, 2⟩ := by decide

/-- SED, V122. -/
theorem test_sed_v122 : after (step (place 0x1000 [] [0xF8])) registers =
    some ⟨0x00, 0x00, 0x00, 0x00, 0x28, 0x1001, 2⟩ := by decide

/-- CLV, V123. -/
theorem test_clv_v123 : after (step ((place 0x1000 [] [0xB8]).withP 0x60)) registers =
    some ⟨0x00, 0x00, 0x00, 0x00, 0x20, 0x1001, 2⟩ := by decide

/-- NOP, V124. -/
theorem test_nop_v124 : after (step (place 0x1000 [] [0xEA])) registers =
    some ⟨0x00, 0x00, 0x00, 0x00, 0x20, 0x1001, 2⟩ := by decide

/-- BRK, V125. -/
theorem test_brk_v125 :
    after (step ((place 0x1000 [(0x0001, 0x35), (0xFFFE, 0x48), (0xFFFF, 0xFF)] [0x00]).withSp 0xFF)) (fun t => (registers t, t.ram 0x01FD, t.ram 0x01FE, t.ram 0x01FF)) =
    some (⟨0x00, 0x00, 0x00, 0xFC, 0x24, 0xFF48, 7⟩, 0x30, 0x02, 0x10) := by decide

/-- RTI, V127. -/
theorem test_rti_v127 : after (step (((place 0xFF48 [(0x0001, 0x35), (0x01FD, 0x30), (0x01FE, 0x02), (0x01FF, 0x10)] [0x40]).withSp 0xFC).withP 0x24)) registers =
    some ⟨0x00, 0x00, 0x00, 0xFF, 0x20, 0x1002, 6⟩ := by decide

/-- RTI, V128. -/
theorem test_rti_v128 : after (step (((place 0x1000 [(0x01FD, 0xFF), (0x01FE, 0x00), (0x01FF, 0x30)] [0x40]).withSp 0xFC).withP 0x24)) registers =
    some ⟨0x00, 0x00, 0x00, 0xFF, 0xEF, 0x3000, 6⟩ := by decide

/-- (undefined 02), V129. -/
theorem test_und_v129 : after (step (((place 0x1000 [] [0x02]).withA 0x11).withP 0xE3)) registers =
    some ⟨0x11, 0x00, 0x00, 0x00, 0xE3, 0x1001, 2⟩ := by decide

/-- BRK through the system ROM's vector, V126. -/
theorem test_brk_v126 :
    after (step ((((place 0x1000 [] [0x00]).withSp 0xFF).withP 0x2D).withRoms ⟨[], [(0x1FFE, 0x48), (0x1FFF, 0xFF)], []⟩))
      (fun t => (registers t, t.ram 0x01FD, t.ram 0x01FE, t.ram 0x01FF)) =
    some (⟨0x00, 0x00, 0x00, 0xFC, 0x2D, 0xFF48, 7⟩, 0x3D, 0x02, 0x10) := by decide

/-! ## Addressing modes (95_test_vectors.md, part 2) -/

/-- Zero-page and absolute sums wrap, V4, V7, V24; no wrap, V6. -/
theorem test_ea_direct :
    (State.reset.withX 0x20).ea (.zpx 0xF0) = 0x0010 ∧ (State.reset.withY 0x02).ea (.aby 0xFFFF) = 0x0001 ∧
    (State.reset.withY 0x01).ea (.zpy 0x10) = 0x0011 ∧ (State.reset.withX 0x20).ea (.abx 0x12F0) = 0x1310 := by decide

/-- The pointer's second byte wraps to 0x0000, V8, V10; Y is added after, V9. -/
theorem test_ea_pointers :
    ((place 0x1000 [(0x0000, 0x12), (0x00FF, 0x34), (0x0100, 0x99)] []).withX 0x01).ea (.izx 0xFE) = 0x1234 ∧
    (place 0x1000 [(0x0000, 0x30), (0x00FF, 0x00)] []).ea (.izy 0xFF) = 0x3000 ∧
    ((place 0x1000 [(0x0010, 0xF8), (0x0011, 0x20)] []).withY 0x10).ea (.izy 0x10) = 0x2108 := by decide

/-- JMP indirect from the last byte of a page, V104; with the page wrap configured off it carries (R123). -/
theorem test_jump_pointer :
    let s := place 0x1000 [(0x0200, 0x12), (0x02FF, 0x34), (0x0300, 0x56)] []
    s.jumpTarget (.ind 0x02FF) = 0x1234 ∧
    { s with cfg := { s.cfg with jmpIndPageWrap := false } }.jumpTarget (.ind 0x02FF) = 0x5634 := by decide

/-! ## The bus (95_test_vectors.md, part 7) -/

/-- Marker ROMs and RAM with the bank register at `bank`. -/
def marked (bank : Byte) (cells : List (Word × Byte)) : State :=
  (place 0x1000 ([(0x0001, bank), (0xA000, 0xA1), (0xD000, 0xD1), (0xE000, 0xE1), (0xC000, 0xC1)] ++ cells) []).withRoms
    ⟨[(0x0000, 0xEE), (0x1FFF, 0xEF)], [(0x0000, 0x55), (0x1FFF, 0x56)], [(0x0000, 0xC4), (0x0FFF, 0xC5)]⟩

/-- The bank table, as part 7 prints it. -/
theorem test_bank_table :
    ([0x00, 0x01, 0x02, 0x03, 0x04, 0x05, 0x06, 0x07] : List Byte).map (fun bank =>
      let s := marked bank []
      (s.read 0xA000, s.read 0xD000, s.read 0xE000, s.read 0xC000)) =
    [(0xA1, 0xD1, 0xE1, 0xC1), (0xA1, 0xC4, 0xE1, 0xC1), (0xA1, 0xC4, 0x55, 0xC1), (0xEE, 0xC4, 0x55, 0xC1),
     (0xA1, 0xD1, 0xE1, 0xC1), (0xA1, 0xD1, 0xE1, 0xC1), (0xA1, 0xD1, 0x55, 0xC1), (0xEE, 0xD1, 0x55, 0xC1)] := by decide

/-- Bits 7 to 3 of the bank register take no part. -/
theorem test_bank_high_bits : (marked 0xFF []).read 0xA000 = 0xEE ∧ (marked 0x00 []).read 0xA000 = 0xA1 := by decide

/-- RAM and a read of the same address after a write, V132 to V137: ROM shadows. -/
theorem test_write_shadowed :
    ([(0x37, 0xA000), (0x37, 0xE000), (0x33, 0xD000), (0x35, 0xA000), (0x36, 0xA000), (0x36, 0xE000)] :
      List (Byte × Word)).map (fun c =>
        let t := (marked c.1 []).write c.2 0x12
        (t.ram c.2, t.read c.2)) =
    [(0xA1, 0xEE), (0xE1, 0x55), (0xD1, 0xC4), (0x12, 0x12), (0x12, 0x12), (0xE1, 0x55)] := by decide

/-- Passthrough, colour RAM and the window switched off, V138 to V143. -/
theorem test_write_peripherals :
    ([(0x37, 0xD020, 0xFE), (0x37, 0xD800, 0xFE), (0x37, 0xDBFF, 0x1F), (0x37, 0xDC00, 0xFE), (0x37, 0xD7FF, 0xFE),
      (0x34, 0xD800, 0xFE)] : List (Byte × Word × Byte)).map (fun c =>
        let t := (marked c.1 []).write c.2.1 c.2.2
        (t.ram c.2.1, t.read c.2.1)) =
    [(0xFE, 0xFE), (0x0E, 0x0E), (0x0F, 0x0F), (0xFE, 0xFE), (0xFE, 0xFE), (0xFE, 0xFE)] := by decide

/-- Write-one-to-clear, V144 to V147; the raster address stores in RAM and reads the raster, V148; the bank
register is RAM, V149. -/
theorem test_write_status :
    ([(0x37, 0xD019, 0x0F, 0x05), (0x37, 0xD019, 0x0F, 0x00), (0x37, 0xD019, 0x8F, 0xFF), (0x34, 0xD019, 0x0F, 0x05),
      (0x37, 0xD012, 0x00, 0x77), (0x37, 0x0001, 0x37, 0x30)] : List (Byte × Word × Byte × Byte)).map (fun c =>
        let t := (marked c.1 [(c.2.1, c.2.2.1)]).write c.2.1 c.2.2.2
        (t.ram c.2.1, t.read c.2.1)) =
    [(0x0A, 0x0A), (0x0F, 0x0F), (0x00, 0x00), (0x05, 0x05), (0x77, 0x00), (0x30, 0x30)] := by decide

/-- Raster readback, V150 to V158, and with the window off. -/
theorem test_raster :
    ([0, 62, 63, 6300, 16065, 16128, 19655, 19656, 59598] : List Nat).map
      (fun c => (State.reset.withCycles c).read 0xD012) = [0x00, 0x00, 0x01, 0x64, 0xFF, 0x00, 0x37, 0x00, 0x0A] ∧
    ((marked 0x34 [(0xD012, 0x42)]).withCycles 6300).read 0xD012 = 0x42 := by decide

/-! ## Events (95_test_vectors.md, part 8) -/

/-- X1: a reset reads its vector after the bank bits became 7. -/
theorem test_reset_x1 :
    let s := (((((((((place 0x1234 [(0x0000, 0x00), (0x0001, 0x30), (0xFFFC, 0x11), (0xFFFD, 0x22), (0x0400, 0x41)]
      []).withA 0x12).withX 0x34).withY 0x56).withSp 0x78).withP 0xE7).withCycles 1000).withBalance (-3)).withTicks 5).withRoms
      ⟨[], [(0x1FFC, 0xE2), (0x1FFD, 0xFC)], []⟩
    let t := s.hostReset []
    (registers t, t.balance, t.ticks, t.ram 0x0000, t.ram 0x0001) =
      (⟨0x00, 0x00, 0x00, 0x00, 0x20, 0xFCE2, 1000⟩, -3, 5, 0x2F, 0x37) := by decide

/-- The machine of X3 to X5, with the status byte given. -/
def beforeInterrupt (p : Byte) : State :=
  (((((place 0x1234 [] []).withSp 0xFF).withP p).withCycles 100).withBalance (-2)).withRoms
    ⟨[], [(0x1FFE, 0x48), (0x1FFF, 0xFF)], []⟩

/-- X3: an accepted request. -/
theorem test_irq_x3 :
    let t := (beforeInterrupt 0x23).irq
    (registers t, t.balance, t.ram 0x01FF, t.ram 0x01FE, t.ram 0x01FD) =
      (⟨0x00, 0x00, 0x00, 0xFC, 0x27, 0xFF48, 107⟩, -9, 0x12, 0x34, 0x23) := by decide

/-- X4: a masked request is lost. -/
theorem test_irq_x4 : (beforeInterrupt 0x27).irq = beforeInterrupt 0x27 := by decide

/-- X5: a break request with I set. -/
theorem test_forceBreak_x5 :
    let t := (beforeInterrupt 0x27).forceBreak
    (registers t, t.balance, t.ram 0x01FF, t.ram 0x01FE, t.ram 0x01FD) =
      (⟨0x00, 0x00, 0x00, 0xFC, 0x27, 0xFF48, 107⟩, -9, 0x12, 0x34, 0x27) := by decide

/-- X5b: the pushes wrap inside the stack page. -/
theorem test_irq_x5b :
    let t := ((place 0x1234 [] []).withSp 0x01).irq
    (t.ram 0x0101, t.ram 0x0100, t.ram 0x01FF, t.sp) = (0x12, 0x34, 0x20, 0xFE) := by decide

/-- X6: twelve keys leave ten. -/
theorem test_keys_x6 :
    let t := ([0x41, 0x42, 0x43, 0x44, 0x45, 0x46, 0x47, 0x48, 0x49, 0x4A, 0x4B, 0x4C] : List Byte).foldl
      State.injectKey State.reset
    (t.ram 0x00C6, t.ram 0x0277, t.ram 0x0280, t.ram 0x0281) = (0x0A, 0x41, 0x4A, 0x00) := by decide

/-- X7 and X7b: a length byte above ten, and a partly filled buffer. -/
theorem test_keys_x7 :
    (place 0x1000 [(0x00C6, 0x0B)] []).injectKey 0x41 = place 0x1000 [(0x00C6, 0x0B)] [] ∧
    (let t := (place 0x1000 [(0x00C6, 0x03)] []).injectKey 0x0D
     (t.ram 0x027A, t.ram 0x00C6) = (0x0D, 0x04)) := by decide

/-- R287: the host's key map. -/
theorem test_key_codes :
    ([.char 'a', .char 'A', .char ' ', .enter, .backspace, .arrowLeft, .arrowRight, .arrowUp, .arrowDown, .unmapped] :
      List Key).map Key.code =
    [some 0x41, some 0x41, some 0x20, some 13, some 20, some 157, some 29, some 145, some 17, none] := by decide

/-- R287: uppercase beyond a to z (é gives É, ÷ is no letter, dotless i gives I), and no code for a control
character. -/
theorem test_key_codes_wide :
    ([.char 'é', .char 'þ', .char '÷', .char '£', .char 'ı', .char '\t', .char '\n'] : List Key).map Key.code =
    [some 0xC9, some 0xDE, some 0xF7, some 0xA3, some 0x49, none, none] := by decide

/-- R287: of typed text, a tab injects nothing and a line feed is Enter. -/
theorem test_typed_text :
    (let t := State.reset.typeText ['r', '\t', '\n']
     (t.ram 0x00C6, t.ram 0x0277, t.ram 0x0278, t.ram 0x0279)) = (2, 0x52, 13, 0) := by decide

/-- A whole tick in small (R272, R275): one cycle of budget left, one NOP, then the request, then the count. -/
theorem test_tick_small :
    after (tick (((place 0x1000 [] [0xEA]).withBalance (-19655)).withSp 0xFF))
      (fun t => (registers t, t.balance, t.ticks, t.ram 0x01FF, t.ram 0x01FE, t.ram 0x01FD)) =
    some (⟨0x00, 0x00, 0x00, 0xFC, 0x24, 0x0000, 9⟩, -8, 1, 0x10, 0x01, 0x20) := by decide

/-- X13 in small (R272): with a valve of 2 the unspent budget is dropped. -/
theorem test_valve_small :
    let s := place 0x1000 [] [0xEA, 0xEA, 0xEA]
    after (execute 19656 { s with cfg := { s.cfg with valve := 2 } }) (fun t => (t.pc, t.cycles, t.balance)) =
      some (0x1002, 4, 0) := by decide

/-- X9: a snapshot with a short RAM, and none, are refused and change nothing. -/
theorem test_restore_x9 :
    State.reset.restore (some ⟨List.replicate 65535 0, 0x99, 0, 0, 0, 0, 0, 0⟩) = (State.reset, false) ∧
    State.reset.restore none = (State.reset, false) := by
  refine ⟨?_, rfl⟩
  unfold State.restore
  exact if_neg (by simp only [List.length_replicate]; decide)

/-- The machine of X10 and X11, cells 0, 41 and 999. -/
def screen : State :=
  (place 0x1000 [(0xD020, 0xFE), (0xD021, 0x06), (0x0400, 0x20), (0xD800, 0x0E), (0x0429, 0x41), (0xD829, 0xF1),
    (0x07E7, 0x41), (0xDBE7, 0x07)] []).withRoms
    ⟨[], [], [(0x208, 0x18), (0x209, 0x3C), (0x20A, 0x66), (0x20B, 0x7E), (0x20C, 0x66), (0x20D, 0x66), (0x20E, 0x66)]⟩

/-- The colour of palette index `k`. -/
def index (k : Byte) : Rgb := screen.colour k

/-- X10: border, inner corners, a blank cell. -/
theorem test_render_x10 :
    [screen.pixel 0 0, screen.pixel 35 32, screen.pixel 36 31, screen.pixel 236 32, screen.pixel 271 383,
      screen.pixel 36 352] = List.replicate 6 (index 14) ∧
    [screen.pixel 36 32, screen.pixel 43 39, screen.pixel 235 351] = List.replicate 3 (index 6) := by decide

/-- X11: pixel rows of cells 41 and 999. -/
theorem test_render_x11 :
    (List.range 8).map (fun x => screen.pixel 44 (40 + x)) = [6, 6, 6, 1, 1, 6, 6, 6].map index ∧
    (List.range 8).map (fun x => screen.pixel 46 (40 + x)) = [6, 1, 1, 6, 6, 1, 1, 6].map index ∧
    (List.range 8).map (fun x => screen.pixel 47 (40 + x)) = [6, 1, 1, 1, 1, 1, 1, 6].map index ∧
    (List.range 8).map (fun x => screen.pixel 228 (344 + x)) = [6, 6, 6, 7, 7, 6, 6, 6].map index := by decide

/-! ## Memory -/

/-- The canonical form is kept, and a write of what an unlisted address reads as removes the entry. -/
theorem test_memory_form :
    Memory.wf 65536 State.reset.mem = true ∧ Memory.write [(5, 1)] 5 0 = [] ∧ Memory.write [(5, 1)] 3 2 = [(3, 2), (5, 1)] ∧
    Memory.wf 65536 [(5, 1), (5, 2)] = false ∧ Memory.wf 65536 [(5, 0)] = false ∧ Memory.wf 8192 [(8192, 1)] = false := by
  decide

/-! ## Witnesses: for each obligation with hypotheses, what meets them -/

theorem witness_DecodeInvertsEncode : (Instr.sbc (.mem (.izy 0xFF))).wf = true ∧ (Instr.und 0xFF).wf = true := by decide

theorem witness_UndefinedOpcodesAreTheListed :
    (0x02 : Byte) ∈ undefinedOpcodes ∧ (0xFF : Byte) ∈ undefinedOpcodes ∧ (0x00 : Byte) ∉ undefinedOpcodes ∧
    (0xFE : Byte) ∉ undefinedOpcodes := by decide

/-- A branch taken to another page, and an instruction that is no branch. -/
theorem witness_InstructionsCostTheirBaseCycles :
    (∃ t, exec (.bcc 0x80) State.reset = .next t ∧ t.cycles = 4) ∧
    ∃ t, exec .rti State.reset = .next t ∧ Instr.rti.mode ≠ .rel := ⟨⟨_, rfl, rfl⟩, _, rfl, by decide⟩

theorem witness_StepRunsTheDecodedInstruction :
    decode (place 0x1000 [] [0x6C, 0x14, 0x03]).fetchBytes = .ok (.jmp (.ind 0x0314), []) := by decide

theorem witness_EveryStepCompletes : 2 ≤ State.reset.cfg.undefCycles := by decide

theorem witness_ConstructLeavesTheResetState :
    (let r : RomImages := ⟨List.replicate 8192 0, List.replicate 8192 1, List.replicate 4096 2⟩
     r.ext.length = 8192 ∧ r.sys.length = 8192 ∧ r.glyph.length = 4096) ∧
    (let r : RomImages := ⟨List.replicate 8192 0, List.replicate 8192 0, List.replicate 4095 0⟩
     r.ext.length ≠ 8192 ∨ r.sys.length ≠ 8192 ∨ r.glyph.length ≠ 4096) := by
  simp only [List.length_replicate]
  decide

theorem witness_HostResetEffect : (marked 0x30 []).cfg = Config.default := rfl

theorem witness_StepKeepsTheInvariant : State.reset.Inv ∧ ∃ t, step State.reset = .next t := ⟨by decide, _, rfl⟩

/-- Each kind of event, on a machine that meets the invariant. -/
theorem witness_EventsKeepTheInvariant :
    State.reset.Inv ∧ (∃ r, applyEvent (.reset []) State.reset = .next r) ∧
    (∃ r, applyEvent .forceBreak State.reset = .next r) ∧ (∃ r, applyEvent (.injectKey 0x41) State.reset = .next r) ∧
    (∃ r, applyEvent .snapshot State.reset = .next r) ∧ (∃ r, applyEvent (.restore none) State.reset = .next r) :=
  ⟨by decide, ⟨_, rfl⟩, ⟨_, rfl⟩, ⟨_, rfl⟩, ⟨_, rfl⟩, _, rfl⟩

theorem witness_EventsKeepTheInvariant_tick :
    ∃ r, applyEvent .tick ((place 0x1000 [] [0xEA]).withBalance (-19655)) = .next r := ⟨_, rfl⟩

/-- The boundary of each range, in a bank state that shows each of its stores. -/
theorem witness_ReadsFollowTheBankBits :
    (marked 0x37 []).cfg = Config.default ∧
    (let s := marked 0x33 [(0x9FFF, 0x9F), (0xCFFF, 0xCF)]
     [s.read 0x9FFF, s.read 0xA000, s.read 0xBFFF, s.read 0xC000, s.read 0xCFFF, s.read 0xD000, s.read 0xDFFF,
       s.read 0xE000, s.read 0xFFFF] = [0x9F, 0xEE, 0xEF, 0xC1, 0xCF, 0xC4, 0xC5, 0x55, 0x56]) ∧
    (let s := (marked 0x37 [(0xD011, 0x11), (0xD012, 0x12), (0xD013, 0x13), (0xDFFF, 0xDF)]).withCycles 126
     [s.read 0xD011, s.read 0xD012, s.read 0xD013, s.read 0xDFFF] = [0x11, 0x02, 0x13, 0xDF]) := by decide

theorem witness_WritesFollowTheBankBits :
    (marked 0x37 []).cfg = Config.default ∧
    ([0x9FFF, 0xA000, 0xBFFF, 0xC000, 0xCFFF, 0xD018, 0xD019, 0xD01A, 0xD7FF, 0xD800, 0xDBFF, 0xDC00, 0xDFFF,
      0xE000, 0xFFFF] : List Word).map (fun a => ((place 0x1000 [(a, 0x5F)] []).write a 0xF3).ram a) =
    [0xF3, 0x5F, 0x5F, 0xF3, 0xF3, 0xF3, 0x0C, 0xF3, 0xF3, 0x03, 0x03, 0xF3, 0xF3, 0x5F, 0x5F] ∧
    ([0xD000, 0xDFFF] : List Word).map (fun a => ((place 0x1000 [(0x0001, 0x33), (a, 0x5F)] []).write a 0xF3).ram a) =
    [0x5F, 0x5F] := by decide

theorem witness_ReadAfterWrite :
    (marked 0x33 []).store 0xA000 = .romExt ∧ (marked 0x33 []).store 0xFFFF = .romSys ∧
    (marked 0x33 []).store 0xDFFF = .romGlyph ∧ (marked 0x33 []).store 0x0001 = .ram := by decide

/-- At both ends of the page: a push at 0x00, a pull at 0xFF. -/
theorem witness_StackWrapsInItsPage :
    State.reset.StackPlain ∧ (State.reset.push 0x43).sp = 0xFF ∧ (State.reset.push 0x43).ram 0x0100 = 0x43 ∧
    (State.reset.withSp 0xFF).pull.2.sp = 0x00 :=
  ⟨by decide, by decide, by decide, by decide⟩

theorem witness_OverflowIsSignedOverflow :
    (∃ t, exec (.adc (.imm 0x50)) (State.reset.withA 0x50) = .next t ∧ t.flag .v = true) ∧
    ∃ t, exec (.sbc (.imm 0xB0)) ((State.reset.withA 0x50).withP 0x21) = .next t ∧ t.flag .v = true :=
  ⟨⟨_, rfl, by decide⟩, _, rfl, by decide⟩

theorem witness_DecimalModeIsIgnored :
    ∃ t u, exec (.adc (.imm 0x01)) (State.reset.withA 0x09) = .next t ∧
      exec (.adc (.imm 0x01)) ((State.reset.withA 0x09).setFlag .d true) = .next u ∧ u.a = 0x0A ∧ u.flag .d = true :=
  ⟨_, _, rfl, rfl, by decide, by decide⟩

theorem witness_ComparisonsSetFlags :
    let s := ((State.reset.withA 1).withX 2).withY 3
    (s.a, s.x, s.y) = (1, 2, 3) ∧
    ∀ o, (Instr.cmp o = .cmp o ∧ s.a = s.a) ∧ (Instr.cpx o = .cpx o ∧ s.x = s.x) ∧ (Instr.cpy o = .cpy o ∧ s.y = s.y) :=
  ⟨rfl, fun _ => ⟨⟨rfl, rfl⟩, ⟨rfl, rfl⟩, rfl, rfl⟩⟩

theorem witness_IncrementsAndDecrementsMemory :
    let s := place 0x1000 [(0x0010, 0xFF)] []
    s.read (s.ea (.zp 0x10)) + 1 = 0x00 ∧ s.read (s.ea (.zp 0x11)) - 1 = 0xFF := by decide

theorem witness_ShiftsOfTheAccumulator :
    (shiftLeft 0x81 false = ⟨0x02, true⟩ ∧ Instr.asl .acc = .asl .acc) ∧
    (shiftRight 0x01 false = ⟨0x00, true⟩ ∧ Instr.lsr .acc = .lsr .acc) ∧
    (rotateLeft 0x80 true = ⟨0x01, true⟩ ∧ Instr.rol .acc = .rol .acc) ∧
    (rotateRight 0x01 true = ⟨0x80, true⟩ ∧ Instr.ror .acc = .ror .acc) := by decide

theorem witness_ShiftsOfMemory :
    (Instr.asl (.mem (.zp 0x10))).wf = true ∧ (Instr.lsr (.mem (.zpx 0x10))).wf = true ∧
    (Instr.rol (.mem (.abs 0x2000))).wf = true ∧ (Instr.ror (.mem (.abx 0x2000))).wf = true := by decide

/-- Each branch, taken and not taken, with the extreme displacements. -/
theorem witness_BranchesFollowTheirFlag :
    (true = !State.reset.flag .c ∧ false = State.reset.flag .c) ∧ (true = !State.reset.flag .z ∧ false = State.reset.flag .z) ∧
    (true = !State.reset.flag .n ∧ false = State.reset.flag .n) ∧ (true = !State.reset.flag .v ∧ false = State.reset.flag .v) ∧
    (let s := State.reset.withP 0xE3
     (true = s.flag .c ∧ false = !s.flag .c) ∧ (true = s.flag .z ∧ false = !s.flag .z) ∧
     (true = s.flag .n ∧ false = !s.flag .n) ∧ (true = s.flag .v ∧ false = !s.flag .v)) ∧
    (0x80 : Byte).toInt = -128 ∧ (0x7F : Byte).toInt = 127 := by decide

theorem witness_JumpTargets :
    State.reset.cfg.jmpIndPageWrap = true ∧ (0x02FF : Word).toNat % 256 = 255 ∧ (0x0300 : Word).toNat % 256 ≠ 255 := by
  decide

theorem witness_JsrPushesItsLastByte : (State.reset.withSp 0x00).StackPlain ∧ (State.reset.withSp 0xFF).StackPlain := by
  decide

theorem witness_RtsReturnsFromJsr :
    State.reset.StackPlain ∧ ∃ t u, exec (.jsr 0x1234) State.reset = .next t ∧ exec .rts t = .next u :=
  ⟨by decide, _, _, rfl, rfl⟩

theorem witness_PushesOntoTheStack : (State.reset.withSp 0x00).StackPlain := by decide

theorem witness_FlagInstructions :
    (.clc, 0x18, .c, false) ∈ ([(.clc, 0x18, .c, false), (.sec, 0x38, .c, true), (.cli, 0x58, .i, false),
      (.sei, 0x78, .i, true), (.cld, 0xD8, .d, false), (.sed, 0xF8, .d, true),
      (.clv, 0xB8, .v, false)] : List (Instr × Byte × Flag × Bool)) := by decide

theorem witness_NoOperations : (0x02 : Byte) ∈ undefinedOpcodes ∧ (0xFC : Byte) ∈ undefinedOpcodes := by decide

theorem witness_BrkTakesTheSoftwareTrap : (State.reset.withSp 0x01).StackPlain := by decide

theorem witness_RtiUndoesATrapEntry :
    State.reset.StackPlain ∧ State.reset.Inv ∧
    (∃ t u, exec .brk State.reset = .next t ∧ exec .rti t = .next u) ∧
    ∃ u, exec .rti (State.reset.intEntry 0xFFFE false) = .next u :=
  ⟨by decide, by decide, ⟨_, _, rfl, rfl⟩, _, rfl⟩

theorem witness_InterruptEntry :
    (State.reset.withP 0x24).flag .i = true ∧ State.reset.flag .i = false ∧ State.reset.StackPlain := by decide

/-- A balance just above, at and just below what leaves nothing to spend. -/
theorem witness_ExecuteSpendsItsBudget :
    State.reset.cfg.undefCycles ≤ 7 ∧ 0 < State.reset.balance + (1 : Nat) ∧ State.reset.balance + (0 : Nat) ≤ 0 ∧
    (State.reset.withBalance (-13)).balance + (13 : Nat) ≤ 0 := by decide

theorem witness_ValveIsUnreachableByDefault :
    State.reset.cfg = Config.default ∧ State.reset.balance ≤ 0 ∧ 9828 ≤ 9828 ∧ 9828 ≤ State.reset.cfg.valve := by decide

theorem witness_TickAccounting :
    State.reset.cfg = Config.default ∧ State.reset.balance ≤ 0 ∧ -13 ≤ State.reset.balance ∧
    (State.reset.withBalance (-13)).balance = -13 := by decide

/-- Nine pending keys, and ten. -/
theorem witness_InjectKeyStoresOrDrops :
    State.reset.cfg = Config.default ∧ ((place 0x1000 [(0x00C6, 9)] []).ram 0x00C6).toNat < 10 ∧
    10 ≤ ((place 0x1000 [(0x00C6, 10)] []).ram 0x00C6).toNat := by decide

theorem witness_KeysInjectTheirCodes :
    0xA0 ≤ 'þ'.toNat ∧ 'þ'.toNat ≤ 0xFE ∧ 'þ'.toNat ≠ 0xAD ∧ 'þ'.toNat ≠ 0xB5 ∧ 'þ'.toNat ≠ 0xDF ∧
    0x20 ≤ '~'.toNat ∧ '~'.toNat ≤ 0x7E ∧ '\t'.toNat < 0x20 ∧ 0x7F ≤ (Char.ofNat 0x9F).toNat ∧
    (Char.ofNat 0x9F).toNat ≤ 0x9F := by decide

theorem witness_TwelveKeysLeaveTen :
    State.reset.cfg = Config.default ∧ State.reset.ram 0x00C6 = 0 ∧
    ([1, 2, 3, 4, 5, 6, 7, 8, 9, 10, 11, 12] : List Byte).length = 12 := by decide

theorem witness_SnapshotRoundTrip : (marked 0x37 []).Inv := by decide

theorem witness_RestoreIsAllOrNothing :
    (⟨List.replicate 65535 0, 0, 0, 0, 0, 0, 0, 0⟩ : Snapshot).ram.length ≠ 65536 ∧
    (⟨List.replicate 65536 1, 0, 0, 0, 0, 0xFF, 0, 0⟩ : Snapshot).ram.length = 65536 := by
  simp only [List.length_replicate]
  decide

/-- The last text cell and its last pixel, with the default geometry and an all-zero glyph. -/
theorem witness_BlankGlyphShowsBackground :
    24 < 25 ∧ 39 < 40 ∧ 7 < 8 ∧ State.reset.cfg.innerX0 + 320 ≤ State.reset.cfg.displayW ∧
    State.reset.cfg.innerY0 + 200 ≤ State.reset.cfg.displayH ∧
    ∀ r, r < 8 → State.reset.glyphRow (State.reset.cellCode (24 * 40 + 39)) r = 0 := by decide

end Sys2Proof.Tests
end

section
/-! SUPPORT. What every operation of the machine keeps: the ROM images, the configuration and the invariant
(10_state.md R31, 00_scope.md R6), said once for each shared operation and composed for the instructions, the
frame scheduler and the host's events. -/

namespace Sys2Proof.Machine

/-- From `s` to `t` the ROM images and the configuration stay, and the invariant holds of `t` if it held of `s`. -/
structure Keeps (s t : State) : Prop where
  roms : t.roms = s.roms
  cfg : t.cfg = s.cfg
  inv : s.Inv → t.Inv

theorem Keeps.refl (s : State) : Keeps s s := ⟨rfl, rfl, id⟩

theorem Keeps.trans {s t u : State} (h : Keeps s t) (k : Keeps t u) : Keeps s u :=
  ⟨k.roms.trans h.roms, k.cfg.trans h.cfg, k.inv ∘ h.inv⟩

/-- The ROM part of the invariant follows from the ROM images' staying; RAM and the two flags remain to be shown. -/
theorem Keeps.of_fields {s t : State} (hr : t.roms = s.roms) (hc : t.cfg = s.cfg)
    (hm : Memory.wf 65536 s.mem = true → Memory.wf 65536 t.mem = true)
    (hu : s.flag .u = true → t.flag .u = true) (hb : s.flag .b = false → t.flag .b = false) : Keeps s t := by
  refine ⟨hr, hc, fun ⟨wfMem, wfExt, wfSys, wfGlyph, flagU, flagB⟩ => ?_⟩
  exact ⟨hm wfMem, hr ▸ wfExt, hr ▸ wfSys, hr ▸ wfGlyph, hu flagU, hb flagB⟩

section Operations

variable (s : State)

/-! ## Registers and flags -/

theorem State.keeps_withA (v : Byte) : Keeps s (s.withA v) := ⟨rfl, rfl, id⟩
theorem State.keeps_withX (v : Byte) : Keeps s (s.withX v) := ⟨rfl, rfl, id⟩
theorem State.keeps_withY (v : Byte) : Keeps s (s.withY v) := ⟨rfl, rfl, id⟩
theorem State.keeps_withSp (v : Byte) : Keeps s (s.withSp v) := ⟨rfl, rfl, id⟩
theorem State.keeps_withPc (w : Word) : Keeps s (s.withPc w) := ⟨rfl, rfl, id⟩
theorem State.keeps_withCycles (n : Nat) : Keeps s (s.withCycles n) := ⟨rfl, rfl, id⟩
theorem State.keeps_withBalance (b : Int) : Keeps s (s.withBalance b) := ⟨rfl, rfl, id⟩
theorem State.keeps_withTicks (n : Nat) : Keeps s (s.withTicks n) := ⟨rfl, rfl, id⟩

theorem State.keeps_setFlag {f : Flag} (hu : f ≠ .u) (hb : f ≠ .b) (v : Bool) : Keeps s (s.setFlag f v) :=
  .of_fields rfl rfl id (by simp [hu.symm]) (by simp [hb.symm])

/-- A status byte that is pulled or restored has U = 1 and B = 0, whatever the byte (R31). -/
theorem State.keeps_loadStatus (p : Byte) : Keeps s (s.withP (loadedStatus p)) :=
  .of_fields rfl rfl id (fun _ => flagOf_loadedStatus p .u) (fun _ => flagOf_loadedStatus p .b)

theorem State.keeps_setNZ (r : Byte) : Keeps s (s.setNZ r) :=
  (s.keeps_setFlag (f := .z) nofun nofun _).trans (State.keeps_setFlag _ (f := .n) nofun nofun _)

theorem State.keeps_loadA (v : Byte) : Keeps s (s.loadA v) := (s.keeps_withA v).trans (State.keeps_setNZ _ v)
theorem State.keeps_loadX (v : Byte) : Keeps s (s.loadX v) := (s.keeps_withX v).trans (State.keeps_setNZ _ v)
theorem State.keeps_loadY (v : Byte) : Keeps s (s.loadY v) := (s.keeps_withY v).trans (State.keeps_setNZ _ v)

theorem State.keeps_addToA (b : Byte) : Keeps s (s.addToA b) :=
  ((s.keeps_setFlag (f := .c) nofun nofun _).trans (State.keeps_setFlag _ (f := .v) nofun nofun _)).trans
    (State.keeps_loadA _ _)

theorem State.keeps_compare (r m : Byte) : Keeps s (s.compare r m) :=
  (s.keeps_setFlag (f := .c) nofun nofun _).trans (State.keeps_setNZ _ _)

theorem State.keeps_testBits (m : Byte) : Keeps s (s.testBits m) :=
  ((s.keeps_setFlag (f := .z) nofun nofun _).trans (State.keeps_setFlag _ (f := .n) nofun nofun _)).trans
    (State.keeps_setFlag _ (f := .v) nofun nofun _)

/-! ## RAM and the stack -/

theorem State.keeps_setRam (a : Word) (v : Byte) : Keeps s (s.setRam a v) :=
  .of_fields rfl rfl (Memory.wf_write a.isLt) id id

theorem State.keeps_write (a : Word) (v : Byte) : Keeps s (s.write a v) := .of_fields rfl rfl s.wf_write id id

theorem State.keeps_modify (ea : Word) (f : Byte → Byte) : Keeps s (s.modify ea f) :=
  (s.keeps_write ea _).trans (State.keeps_setNZ _ _)

theorem State.keeps_shift (o : ShiftOperand) (f : Byte → Bool → Carried) : Keeps s (s.shift o f) := by
  cases o with
  | acc => exact (s.keeps_setFlag (f := .c) nofun nofun _).trans (State.keeps_loadA _ _)
  | mem m =>
    exact ((s.keeps_write (s.ea m) _).trans (State.keeps_setFlag _ (f := .c) nofun nofun _)).trans
      (State.keeps_setNZ _ _)

theorem State.keeps_push (v : Byte) : Keeps s (s.push v) := (s.keeps_write _ v).trans (State.keeps_withSp _ _)

theorem State.keeps_pushWord (w : Word) : Keeps s (s.pushWord w) :=
  (s.keeps_push (hi w)).trans (State.keeps_push _ (lo w))

theorem State.keeps_pull : Keeps s s.pull.2 := s.keeps_withSp _

theorem State.keeps_pullWord : Keeps s s.pullWord.2 := s.keeps_pull.trans (State.keeps_pull _)

theorem State.keeps_trapEntry (ret : Word) (status : Byte) (vector : Word) :
    Keeps s (s.trapEntry ret status vector) :=
  (((s.keeps_pushWord ret).trans (State.keeps_push _ status)).trans
    (State.keeps_setFlag _ (f := .i) nofun nofun true)).trans (State.keeps_withPc _ _)

theorem State.keeps_trapReturn : Keeps s s.trapReturn :=
  ((s.keeps_pull.trans (State.keeps_loadStatus _ _)).trans (State.keeps_pullWord _)).trans (State.keeps_withPc _ _)

end Operations

/-! ## Instructions -/

section Instructions

variable {s t : State}

theorem complete_keeps {length cost : Nat} {body : State → State} (h : complete length cost body s = .next t)
    (hbody : ∀ u, Keeps u (body u)) : Keeps s t := by
  rw [complete_eq] at h
  cases h
  exact ((s.keeps_withPc _).trans (hbody _)).trans (State.keeps_withCycles _ _)

theorem branch_keeps {taken : Bool} {d : Byte} (h : branch taken d s = .next t) : Keeps s t := by
  rw [branch_eq] at h
  cases h
  exact (s.keeps_withPc _).trans (State.keeps_withCycles _ _)

/-- The instructions by the operation each performs on the state past its bytes. -/
theorem exec_keeps {i : Instr} (h : exec i s = .next t) : Keeps s t := by
  cases i with dsimp only [exec] at h
  | lda | txa | tya | and | ora | eor => exact complete_keeps h fun u => u.keeps_loadA _
  | ldx | tax | tsx | inx | dex => exact complete_keeps h fun u => u.keeps_loadX _
  | ldy | tay | iny | dey => exact complete_keeps h fun u => u.keeps_loadY _
  | sta | stx | sty => exact complete_keeps h fun u => u.keeps_write _ _
  | txs => exact complete_keeps h fun u => u.keeps_withSp _
  | adc | sbc => exact complete_keeps h fun u => u.keeps_addToA _
  | bit => exact complete_keeps h fun u => u.keeps_testBits _
  | cmp | cpx | cpy => exact complete_keeps h fun u => u.keeps_compare _ _
  | inc | dec => exact complete_keeps h fun u => u.keeps_modify _ _
  | asl | lsr | rol | ror => exact complete_keeps h fun u => u.keeps_shift _ _
  | bcc | bcs | beq | bmi | bne | bpl | bvc | bvs => exact branch_keeps h
  | jmp => exact complete_keeps h fun u => u.keeps_withPc _
  | jsr => exact complete_keeps h fun u => (u.keeps_pushWord _).trans (State.keeps_withPc _ _)
  | rts => exact complete_keeps h fun u => u.keeps_pullWord.trans (State.keeps_withPc _ _)
  | pha | php => exact complete_keeps h fun u => u.keeps_push _
  | pla => exact complete_keeps h fun u => u.keeps_pull.trans (State.keeps_loadA _ _)
  | plp => exact complete_keeps h fun u => u.keeps_pull.trans (State.keeps_loadStatus _ _)
  | clc | sec | cli | sei | cld | sed | clv =>
    exact complete_keeps h fun u => u.keeps_setFlag (by decide) (by decide) _
  | nop | und => exact complete_keeps h Keeps.refl
  | brk => exact complete_keeps h fun u => u.keeps_trapEntry _ _ _
  | rti => exact complete_keeps h State.keeps_trapReturn

theorem step_keeps (h : step s = .next t) : Keeps s t := exec_keeps h

end Instructions

/-! ## The scheduler -/

theorem State.keeps_intEntry (s : State) (vector : Word) (b : Bool) : Keeps s (s.intEntry vector b) :=
  ((s.keeps_trapEntry _ _ _).trans (State.keeps_withCycles _ _)).trans (State.keeps_withBalance _ _)

theorem State.keeps_irq (s : State) : Keeps s s.irq := by
  unfold State.irq
  split
  · exact .refl s
  · exact s.keeps_intEntry _ _

theorem State.keeps_dropRemainder (s : State) : Keeps s s.dropRemainder := by
  unfold State.dropRemainder
  split
  · exact s.keeps_withBalance 0
  · exact .refl s

/-- A frame's loop keeps what every step keeps, by induction on the instructions left before the valve (R272). -/
theorem runFrame_keeps {n : Nat} {s t : State} (h : runFrame n s = .next t) : Keeps s t := by
  induction n generalizing s with
  | zero => cases h; exact .refl _
  | succ n ih =>
    rw [runFrame] at h
    split at h
    · split at h
      next u hstep => exact ((step_keeps hstep).trans (u.keeps_withBalance _)).trans (ih h)
      · cases h
      · cases h
    · cases h; exact .refl _

theorem execute_keeps {budget : Nat} {s t : State} (h : execute budget s = .next t) : Keeps s t := by
  rw [execute] at h
  split at h
  next u hrun =>
    cases h
    exact ((s.keeps_withBalance _).trans (runFrame_keeps hrun)).trans u.keeps_dropRemainder
  · cases h
  · cases h

theorem tick_keeps {s t : State} (h : tick s = .next t) : Keeps s t := by
  rw [tick] at h
  split at h
  next u hexecute =>
    cases h
    exact ((execute_keeps hexecute).trans u.keeps_irq).trans (State.keeps_withTicks _ _)
  · cases h
  · cases h

/-! ## The host's events -/

theorem State.keeps_injectKey (s : State) (code : Byte) : Keeps s (s.injectKey code) := by
  unfold State.injectKey
  dsimp only
  split
  · exact (s.keeps_setRam _ _).trans (State.keeps_setRam _ _ _)
  · exact .refl s

/-- Reset keeps the invariant from any fresh RAM: its bytes are stored one by one into an empty array, and P is
0x20 (70_reset_and_hazards.md R322). -/
theorem State.keeps_hostReset (s : State) (fresh : List (Word × Byte)) : Keeps s (s.hostReset fresh) := by
  obtain ⟨-, -, -, -, hp, hm, -, -, -, hr, hc⟩ := s.hostReset_fields fresh
  have hflag : ∀ f, (s.hostReset fresh).flag f = flagOf 0x20 f := fun f => by rw [State.flag, hp]
  refine .of_fields hr hc (fun _ => ?_) (fun _ => hflag .u) (fun _ => hflag .b)
  rw [hm]
  exact Memory.wf_writeAll _ (Memory.wf_writeAll fresh rfl)

/-- Restore keeps the invariant for any payload: one of another length is refused, and the model normalises P
(70_reset_and_hazards.md R331; log entry 7). -/
theorem State.keeps_restore (s : State) (payload : Option Snapshot) : Keeps s (s.restore payload).1 := by
  cases payload with
  | none => exact .refl s
  | some k =>
    rw [State.restore]
    split
    next hlength =>
      exact .of_fields rfl rfl (fun _ => Memory.wf_ofBytes k.ram hlength.le)
        (fun _ => flagOf_loadedStatus k.p .u) (fun _ => flagOf_loadedStatus k.p .b)
    · exact .refl s

theorem applyEvent_keeps {e : Event} {s t : State} {out : Output} (h : applyEvent e s = .next (t, out)) :
    Keeps s t := by
  cases e with
  | reset fresh => cases h; exact s.keeps_hostReset fresh
  | tick =>
    rw [applyEvent] at h
    split at h
    next htick => cases h; exact tick_keeps htick
    · cases h
    · cases h
  | forceBreak => cases h; exact s.keeps_intEntry _ _
  | injectKey code => cases h; exact s.keeps_injectKey code
  | snapshot => cases h; exact .refl s
  | restore payload => cases h; exact s.keeps_restore payload

/-! ## The invariant's obligations -/

/-- Settles O13: the instruction at PC keeps the invariant, as each operation it is made of does. -/
theorem stepKeepsTheInvariant : Obligations.StepKeepsTheInvariant :=
  fun _ _ hs hstep => (step_keeps hstep).inv hs

/-- Settles O14: event by event, the tick by way of its frame's steps and its interrupt request. -/
theorem eventsKeepTheInvariant : Obligations.EventsKeepTheInvariant := by
  intro e s t out h
  have keeps := applyEvent_keeps h
  exact ⟨keeps.roms, keeps.cfg, keeps.inv⟩

/-- Settles O12: a fixed state, evaluated. -/
theorem resetMeetsTheInvariant : Obligations.ResetMeetsTheInvariant := by
  unfold Obligations.ResetMeetsTheInvariant
  decide

end Sys2Proof.Machine
end

section
/-! SUPPORT. Push and pull in a stack page of plain RAM (10_state.md R24). -/

namespace Sys2Proof.Machine

section Stack

variable (s : State)

/-- An address is a stack address exactly if it is the sum of page and offset as numbers. -/
theorem State.eq_stackAddr_iff (h : s.StackPlain) (offset : Byte) (a : Word) :
    a = s.stackAddr offset ↔ a.toNat = s.cfg.stackBase.toNat + offset.toNat := by
  rw [← s.stackAddr_toNat offset h, BitVec.toNat_inj]

/-- A pull gives the RAM byte above the stack pointer. -/
theorem State.pull_fst (h : s.StackPlain) : s.pull.1 = s.ram (s.stackAddr (s.sp + 1)) :=
  s.read_stackAddr (s.sp + 1) h

/-- A pull after a push gives the byte back. -/
theorem State.pull_push_fst (h : s.StackPlain) (v : Byte) : (s.push v).pull.1 = v := by
  have back : (s.push v).stackAddr ((s.push v).sp + 1) = s.stackAddr s.sp := by
    rw [State.push_sp, BitVec.sub_add_cancel, State.stackAddr_congr (s.push_cfg v)]
  rw [State.pull_fst _ (by simpa using h), back, s.ram_push v _ h, if_pos rfl]

end Stack

/-- Settles O18: stack addresses are compared as numbers, and a pull reads where the push before it stored. -/
theorem stackWrapsInItsPage : Obligations.StackWrapsInItsPage := by
  intro s v h
  refine ⟨s.push_sp v, fun a => ?_, ?_, s.pull_sp, s.pull_push_fst h v, ?_⟩
  · rw [s.ram_push v a h]
    simp only [s.eq_stackAddr_iff h]
  · have above : BitVec.ofNat 16 (s.cfg.stackBase.toNat + (s.sp.toNat + 1) % 256) = s.stackAddr (s.sp + 1) := by
      have offset : (s.sp + 1).toNat = (s.sp.toNat + 1) % 256 := BitVec.toNat_add s.sp 1
      rw [s.eq_stackAddr_iff h, BitVec.toNat_ofNat, offset]
      have : s.cfg.stackBase.toNat ≤ 0x9F00 := h
      omega
    rw [s.pull_fst h, above]
  · rw [State.pull_sp, State.push_sp, BitVec.sub_add_cancel]

end Sys2Proof.Machine
end

section
/-! SUPPORT. Decimal mode has no arithmetic effect (10_state.md R30): D passes through an addition. -/

namespace Sys2Proof.Machine

section DecimalFlag

variable (s : State)

/-- Setting two different flags commutes. -/
theorem State.setFlag_comm {f g : Flag} (h : f ≠ g) (v w : Bool) :
    (s.setFlag f v).setFlag g w = (s.setFlag g w).setFlag f v := by
  have hp : putFlag (putFlag s.p f v) g w = putFlag (putFlag s.p g w) f v := by
    apply status_ext
    intro k
    by_cases hk : k = g <;> simp [hk, h.symm]
  exact congrArg s.withP hp

theorem State.setFlag_d_setNZ (d : Bool) (r : Byte) : (s.setFlag .d d).setNZ r = (s.setNZ r).setFlag .d d := by
  rw [State.setNZ, s.setFlag_comm (by decide), State.setFlag_comm _ (f := .d) (by decide), State.setNZ]

theorem State.setFlag_d_loadA (d : Bool) (v : Byte) : (s.setFlag .d d).loadA v = (s.loadA v).setFlag .d d :=
  (s.withA v).setFlag_d_setNZ d v

/-- An addition to A reads A and C, so that D set before it or after it is the same. -/
theorem State.setFlag_d_addToA (d : Bool) (b : Byte) : (s.setFlag .d d).addToA b = (s.addToA b).setFlag .d d := by
  have carry : (s.setFlag .d d).carryIn = s.carryIn := by simp [State.carryIn]
  simp only [State.addToA, carry, State.setFlag_a]
  rw [s.setFlag_comm (by decide), State.setFlag_comm _ (f := .d) (by decide), State.setFlag_d_loadA]

/-- An operand does not depend on the flags. -/
theorem State.operand_setFlag (f : Flag) (v : Bool) (o : ReadOperand) : (s.setFlag f v).operand o = s.operand o := by
  cases o with
  | imm value => rfl
  | mem m => cases m <;> rfl

end DecimalFlag

/-- ADC and SBC, as the addition of what `g` makes of the operand: setting D before the instruction is setting it
after, and the instruction keeps it. -/
theorem complete_addToA_ignores_d {length cost : Nat} {g : Byte → Byte} {o : ReadOperand} {s t u : State} {d : Bool}
    (ht : complete length cost (fun t => t.addToA (g (t.operand o))) s = .next t)
    (hu : complete length cost (fun t => t.addToA (g (t.operand o))) (s.setFlag .d d) = .next u) :
    u = t.setFlag .d d ∧ t.flag .d = s.flag .d := by
  rw [complete_eq] at ht hu
  cases ht
  cases hu
  constructor
  · simp only [State.operand_advance, State.operand_setFlag]
    exact congrArg (State.spend · cost) ((s.advance length).setFlag_d_addToA d _)
  · simp [State.flag_addToA]

/-- Settles O27: the state after from `s` with D set is the state after from `s`, with D set. -/
theorem decimalModeIsIgnored : Obligations.DecimalModeIsIgnored := by
  intro o s t u d i hi ht hu
  obtain ⟨rfl, hd⟩ : u = t.setFlag .d d ∧ t.flag .d = s.flag .d := by
    rcases hi with rfl | rfl
    · exact complete_addToA_ignores_d (g := id) ht hu
    · exact complete_addToA_ignores_d (g := complement) ht hu
  exact ⟨t.setFlag_a .d d, fun f hf => by simp [hf], by simp, hd⟩

end Sys2Proof.Machine
end

section
/-! SUPPORT. The bus under the default bank table (20_memory.md R66, R67): the store of an address by the three bank
bits, from which reads and writes follow; and a read after a write under any configuration. -/

namespace Sys2Proof.Machine

/-! ## Resolution by the bank bits -/

/-- A bank bit is that bit of the bank-select register (R65). -/
theorem State.bank_getLsbD (s : State) {k : Nat} (h : k < 3) : s.bank.getLsbD k = (s.ram 0x0001).getLsbD k := by
  simp [State.bank, h]

/-- The eight rows of the default bank table as functions of the bank bits (R66). -/
theorem Config.defaultBankDecode_getElem (bits : BitVec 3) :
    Config.defaultBankDecode[bits.toNat]'bits.isLt =
      ⟨bits.getLsbD 0 && bits.getLsbD 1, bits.getLsbD 1,
        if bits.getLsbD 0 ∨ bits.getLsbD 1 then if bits.getLsbD 2 then .peripherals else .glyphRom else .ram⟩ := by
  revert bits
  decide

theorem State.bankView_of_default {s : State} (h : s.cfg = Config.default) :
    s.bankView =
      ⟨(s.ram 0x0001).getLsbD 0 && (s.ram 0x0001).getLsbD 1, (s.ram 0x0001).getLsbD 1,
        if (s.ram 0x0001).getLsbD 0 ∨ (s.ram 0x0001).getLsbD 1 then
          if (s.ram 0x0001).getLsbD 2 then .peripherals else .glyphRom
        else .ram⟩ := by
  have table : s.cfg.bankDecode = Config.defaultBankDecode := by rw [h]; rfl
  simp only [State.bankView, table, Config.defaultBankDecode_getElem]
  rw [s.bank_getLsbD (k := 0) (by decide), s.bank_getLsbD (k := 1) (by decide), s.bank_getLsbD (k := 2) (by decide)]

/-- The one store that backs an address under the default configuration, by the bits of RAM[1] (R66, R67). -/
theorem State.store_of_default {s : State} (h : s.cfg = Config.default) (a : Word) :
    s.store a =
      if 0xA000 ≤ a.toNat ∧ a.toNat ≤ 0xBFFF ∧ (s.ram 0x0001).getLsbD 0 ∧ (s.ram 0x0001).getLsbD 1 then .romExt
      else if 0xE000 ≤ a.toNat ∧ (s.ram 0x0001).getLsbD 1 then .romSys
      else if 0xD000 ≤ a.toNat ∧ a.toNat ≤ 0xDFFF ∧ ((s.ram 0x0001).getLsbD 0 ∨ (s.ram 0x0001).getLsbD 1) ∧
          (s.ram 0x0001).getLsbD 2 = false then .romGlyph
      else if 0xD000 ≤ a.toNat ∧ a.toNat ≤ 0xDFFF ∧ ((s.ram 0x0001).getLsbD 0 ∨ (s.ram 0x0001).getLsbD 1) then
        .peripherals
      else .ram := by
  simp only [State.store, s.bankView_of_default h, storeOf, Bool.and_eq_true]
  refine if_congr Iff.rfl rfl (if_congr Iff.rfl rfl ?_)
  by_cases window : 0xD000 ≤ a.toNat ∧ a.toNat ≤ 0xDFFF
  · by_cases visible : (s.ram 0x0001).getLsbD 0 ∨ (s.ram 0x0001).getLsbD 1
    · simp only [window, visible, true_and, if_true]
      cases (s.ram 0x0001).getLsbD 2 <;> rfl
    · simp only [window, visible, true_and, false_and, if_true, if_false]
  · simp only [← and_assoc, window, false_and, if_false]

/-! ## Reads -/

theorem State.read_plain {s : State} {a : Word} (h : s.store a = .ram) : s.read a = s.ram a := by
  rw [State.read, h]

/-- The peripherals under the default configuration answer the raster formula at one address, else RAM (R74, R76). -/
theorem State.periphRead_of_default {s : State} (h : s.cfg = Config.default) (a : Word) :
    s.periphRead a = if a.toNat = 0xD012 then BitVec.ofNat 8 (s.cycles / 63 % 312) else s.ram a := by
  rw [State.periphRead, rasterLine, h]
  exact if_congr BitVec.toNat_inj.symm rfl rfl

/-- Settles O15: the address resolves by the bank bits, and where neither a ROM nor the window's peripherals
show, the address is not the raster's or RAM backs it. -/
theorem readsFollowTheBankBits : Obligations.ReadsFollowTheBankBits := by
  intro s a h loram hiram charen
  rw [State.read, s.store_of_default h]
  split_ifs with ext sys glyph periph raster raster
  · rfl
  · rfl
  · rfl
  · exact (s.periphRead_of_default h a).trans (if_pos raster.1)
  · exact (s.periphRead_of_default h a).trans (if_neg fun address => raster ⟨address, periph.2.2⟩)
  · exact absurd ⟨by omega, by omega, raster.2⟩ periph
  · rfl

/-! ## Writes -/

/-- What the peripherals store under the default configuration (R73, R77, R78). -/
theorem State.periphStored_of_default {s : State} (h : s.cfg = Config.default) (a : Word) (v : Byte) :
    s.periphStored a v =
      if a.toNat = 0xD019 then s.ram a &&& ~~~v
      else if 0xD800 ≤ a.toNat ∧ a.toNat ≤ 0xDBFF then v &&& 0x0F
      else v := by
  rw [State.periphStored, h]
  exact if_congr BitVec.toNat_inj.symm rfl rfl

/-- A bus write changes no more than the RAM byte at its address (R71). -/
theorem State.frame_write (s : State) (a : Word) (v : Byte) : Frame s (s.write a v) [] [] (fun c => c = a) :=
  .of_fields (.inr rfl) (.inr rfl) (.inr rfl) (.inr rfl) (fun f _ => s.flag_write a v f)
    (fun _ hne => s.ram_write_other v hne) rfl rfl rfl rfl

/-- Settles O16: the byte at the address is what the store it resolves to makes of the byte written. -/
theorem writesFollowTheBankBits : Obligations.WritesFollowTheBankBits := by
  intro s a b v h loram hiram charen
  refine ⟨?_, s.frame_write a v, s.write_pc a v, s.write_cycles a v⟩
  rw [s.ram_write, s.store_of_default h, ite_not]
  refine if_congr Iff.rfl ?_ rfl
  split_ifs with ext sys glyph periph status colour status colour
  · rfl
  · rfl
  · rfl
  · exact (s.periphStored_of_default h a v).trans (if_pos status.1)
  · rw [s.periphStored_of_default h, if_neg fun address => status ⟨address, periph.2.2⟩]
    exact if_pos ⟨colour.1, colour.2.1⟩
  · rw [s.periphStored_of_default h, if_neg fun address => status ⟨address, periph.2.2⟩]
    exact if_neg fun range => colour ⟨range.1, range.2, periph.2.2⟩
  · exact absurd ⟨by omega, by omega, status.2⟩ periph
  · exact absurd ⟨by omega, by omega, colour.2.2⟩ periph
  · rfl

/-- A write to plain RAM leaves its address plain RAM: the one address whose byte selects the banks is plain in every
bank view (R66). -/
theorem State.store_write_plain {s : State} {a : Word} (v : Byte) (h : s.store a = .ram) :
    (s.write a v).store a = .ram := by
  by_cases select : a = 0x0001
  · exact storeOf_plain _ _ (.inl (by simp [select]))
  · rw [State.store_congr (s.ram_write_other v (Ne.symm select)) rfl, h]

/-- Settles O17: a shadowed write is discarded; a plain one stores the byte and leaves its address plain. -/
theorem readAfterWrite : Obligations.ReadAfterWrite := by
  intro s a v
  refine ⟨s.write_shadowed v, fun plain => ⟨?_, fun b => s.ram_write_other v⟩⟩
  rw [State.read_plain (State.store_write_plain v plain), s.write_plain v plain, s.ram_setRam, if_pos rfl]

end Sys2Proof.Machine
end

section
/-! SUPPORT. The opcode map (30_encoding.md R130–R132): what stands at each opcode byte, read off the decoder row by
row, and that an instruction is what an opcode and two bytes decode to exactly if they begin with its encoding. -/

namespace Sys2Proof

open Machine

/-! ## What the map has at an opcode -/

/-- What an answer of the map at opcode `op` with operand bytes `w` must be (R130): an entry is encoded by that opcode
and as many of the operand bytes as its mode has, and the cycle table prints its base cost there; without an entry the
opcode is one of the 105 (R132). -/
def MapEntry (op : Byte) (w : Word) : Option Instr → Prop
  | some i => encode i = some (op :: (wordBytes w).take (i.length - 1)) ∧
      ∀ cfg, opcodeCycleTable.getD op.toNat none = some (baseCycles cfg i)
  | none => op ∈ undefinedOpcodes

/-- The row that is the map's default branch. -/
theorem decodeRow_last (l : BitVec 4) (b : Byte) (w : Word) : decodeRow 0xF#4 l b w = decodeRowF l b w := rfl

/-- Row by row, and entry by entry in each row; the low nibbles left without an entry in a row are listed. -/
theorem mapEntry_decodeRow (h l : BitVec 4) (w : Word) : MapEntry (h ++ l) w (decodeRow h l (lo w) w) := by
  obtain ⟨row, hrow, rfl⟩ : ∃ row < 16, h = BitVec.ofNat 4 row := ⟨h.toNat, h.isLt, by simp⟩
  interval_cases row
  all_goals
    simp only [↓decodeRow_last, decodeRow, decodeRow0, decodeRow1, decodeRow2, decodeRow3, decodeRow4, decodeRow5,
      decodeRow6, decodeRow7, decodeRow8, decodeRow9, decodeRowA, decodeRowB, decodeRowC, decodeRowD, decodeRowE,
      decodeRowF]
    split
    all_goals try exact ⟨rfl, fun _ => rfl⟩
    change _ ∈ undefinedOpcodes
    revert l
    decide

theorem nibbles_append (op : Byte) : op.extractLsb' 4 4 ++ op.extractLsb' 0 4 = op := by revert op; decide

/-- A decoded instruction is an entry of the map at its opcode, or the undefined opcode itself. -/
theorem decodeOp_cases (op b1 b2 : Byte) :
    (op ∈ undefinedOpcodes ∧ decodeOp op b1 b2 = .und op) ∨ MapEntry op (join b2 b1) (some (decodeOp op b1 b2)) := by
  have entry := mapEntry_decodeRow (op.extractLsb' 4 4) (op.extractLsb' 0 4) (join b2 b1)
  rw [nibbles_append, lo_join] at entry
  unfold decodeOp
  generalize decodeRow (op.extractLsb' 4 4) (op.extractLsb' 0 4) b1 (join b2 b1) = answer at entry
  cases answer with
  | none => exact .inl ⟨entry, rfl⟩
  | some i => exact .inr entry

theorem undefinedOpcodes_nodup : undefinedOpcodes.Nodup := .of_map BitVec.toNat (by decide)

theorem opcodeCycleTable_length : opcodeCycleTable.length = 256 := by
  simp only [opcodeCycleTable, List.length_append]
  rfl

/-- The cycle table prints no number at an undefined opcode. -/
theorem opcodeCycleTable_undefined {op : Byte} (h : op ∈ undefinedOpcodes) :
    opcodeCycleTable.getD op.toNat none = none := by
  fin_cases h <;> rfl

/-- A listed byte is no entry, because an entry has a printed cost. -/
theorem decodeOp_undefined {op : Byte} (h : op ∈ undefinedOpcodes) (b1 b2 : Byte) : decodeOp op b1 b2 = .und op := by
  obtain ⟨-, decoded⟩ | ⟨-, cost⟩ := decodeOp_cases op b1 b2
  · exact decoded
  · exact absurd (cost Config.default) (by rw [opcodeCycleTable_undefined h]; nofun)

theorem encode_und (op : Byte) : encode (.und op) = if op ∈ undefinedOpcodes then some [op] else none := by
  by_cases h : op ∈ undefinedOpcodes <;> simp [encode, Instr.opcode, Instr.opcodes, Instr.mode, Instr.operandBytes, h]

/-! ## Lengths -/

theorem Instr.length_pos (i : Instr) : 1 ≤ i.length := by
  unfold Instr.length
  cases i.mode <;> decide

theorem Instr.length_le_three (i : Instr) : i.length ≤ 3 := by
  unfold Instr.length
  cases i.mode <;> decide

theorem MemOperand.length_bytes (m : MemOperand) : m.bytes.length + 1 = m.mode.length := by cases m <;> rfl

theorem ReadOperand.length_bytes (o : ReadOperand) : o.bytes.length + 1 = o.mode.length := by
  cases o with
  | imm => rfl
  | mem m => exact m.length_bytes

theorem ShiftOperand.length_bytes (o : ShiftOperand) : o.bytes.length + 1 = o.mode.length := by
  cases o with
  | acc => rfl
  | mem m => exact m.length_bytes

theorem JumpOperand.length_bytes (o : JumpOperand) : o.bytes.length + 1 = o.mode.length := by cases o <;> rfl

/-- The opcode and the operand bytes make up the instruction's length (R110, R112). -/
theorem Instr.length_operandBytes (i : Instr) : i.operandBytes.length + 1 = i.length := by
  cases i with
  | lda o | ldx o | ldy o | adc o | sbc o | and o | ora o | eor o | cmp o | cpx o | cpy o => exact o.length_bytes
  | sta m | stx m | sty m | bit m | inc m | dec m => exact m.length_bytes
  | asl o | lsr o | rol o | ror o => exact o.length_bytes
  | jmp o => exact o.length_bytes
  | _ => rfl

/-! ## Encoding a decoded instruction -/

theorem encode_decodeOp (op b1 b2 : Byte) :
    encode (decodeOp op b1 b2) = some ([op, b1, b2].take (decodeOp op b1 b2).length) := by
  obtain ⟨listed, decoded⟩ | ⟨encoded, -⟩ := decodeOp_cases op b1 b2
  · rw [decoded, encode_und, if_pos listed]; rfl
  · rw [encoded, wordBytes, lo_join, hi_join, ← List.take_succ_cons, Nat.sub_add_cancel (Instr.length_pos _)]

/-- Settles O2: the encoding is that of the map's entry, and what has an encoding is well-formed. -/
theorem everyByteStringDecodes : Obligations.EveryByteStringDecodes := by
  intro op b1 b2
  have encoded := encode_decodeOp op b1 b2
  refine ⟨?_, encoded⟩
  rw [← Laws.Encodes.all (decodeOp op b1 b2), encoded]
  rfl

/-- Settles O3: a listed byte has no entry, and an `und` decoded from any other byte would be encoded by it. -/
theorem undefinedOpcodesAreTheListed : Obligations.UndefinedOpcodesAreTheListed := by
  refine ⟨rfl, undefinedOpcodes_nodup, fun op b1 b2 => ⟨fun listed => decodeOp_undefined listed b1 b2, ?_, rfl⟩⟩
  intro unlisted c decoded
  have encoded := encode_decodeOp op b1 b2
  rw [decoded, encode_und] at encoded
  split at encoded
  next listed => cases encoded; exact unlisted listed
  next => cases encoded

/-- Settles O4: the table prints each entry's cost, and nothing at an undefined opcode. -/
theorem opcodeCyclesAreTheTable : Obligations.OpcodeCyclesAreTheTable := by
  refine ⟨opcodeCycleTable_length, fun cfg op b1 b2 => ?_⟩
  obtain ⟨listed, decoded⟩ | ⟨-, cost⟩ := decodeOp_cases op b1 b2
  · rw [decoded, opcodeCycleTable_undefined listed]; rfl
  · rw [cost cfg, Option.getD_some]

/-! ## Decoding an encoded instruction -/

/-- An instruction is what its own encoding decodes to: each operand form stands at its opcode in the map. -/
theorem decodeOp_of_encode {i : Instr} {op b1 b2 : Byte} (h : encode i = some ([op, b1, b2].take i.length)) :
    decodeOp op b1 b2 = i := by
  cases i with
  | lda o | ldx o | ldy o | adc o | sbc o | and o | ora o | eor o | cmp o | cpx o | cpy o =>
    cases o with
    | imm => cases h; rfl
    | mem m => cases m <;> cases h <;> (simp only [decodeOp, join_hi_lo]; rfl)
  | sta m | stx m | sty m | bit m | inc m | dec m => cases m <;> cases h <;> (simp only [decodeOp, join_hi_lo]; rfl)
  | asl o | lsr o | rol o | ror o =>
    cases o with
    | acc => cases h; rfl
    | mem m => cases m <;> cases h <;> (simp only [decodeOp, join_hi_lo]; rfl)
  | jmp o => cases o <;> cases h <;> (simp only [decodeOp, join_hi_lo]; rfl)
  | jsr => cases h; simp only [decodeOp, join_hi_lo]; rfl
  | und =>
    rw [encode_und] at h
    split at h
    next listed => cases h; exact decodeOp_undefined listed b1 b2
    next => cases h
  | _ => cases h; rfl

/-- The encoding of an instruction begins with an opcode, which as many operand bytes follow as its length says. -/
theorem encode_eq_some {i : Instr} {bytes : List Byte} (h : encode i = some bytes) :
    ∃ op operands, bytes = op :: operands ∧ operands.length + 1 = i.length := by
  obtain ⟨op, -, rfl⟩ := Option.map_eq_some_iff.mp h
  exact ⟨op, i.operandBytes, rfl, i.length_operandBytes⟩

/-- The first bytes of a list of at most two bytes, whatever the bytes after them. -/
theorem take_getD_append (op : Byte) : ∀ (bytes rest : List Byte), bytes.length ≤ 2 →
    [op, (bytes ++ rest).getD 0 0, (bytes ++ rest).getD 1 0].take (bytes.length + 1) = op :: bytes
  | [], _, _ => rfl
  | [_], _, _ => rfl
  | [_, _], _, _ => rfl
  | _ :: _ :: _ :: _, _, h => by simp at h

/-- A list that begins with an encoding decodes to its instruction and the rest (R110). -/
theorem decode_append_of_encode {i : Instr} {bytes : List Byte} (h : encode i = some bytes) (rest : List Byte) :
    decode (bytes ++ rest) = .ok (i, rest) := by
  obtain ⟨op, operands, rfl, length⟩ := encode_eq_some h
  have decoded : decodeOp op ((operands ++ rest).getD 0 0) ((operands ++ rest).getD 1 0) = i := by
    apply decodeOp_of_encode
    have short := i.length_le_three
    rw [h, ← length, take_getD_append op operands rest (by omega)]
  rw [List.cons_append, decode, decoded, ← length, if_neg (by simp), Nat.add_sub_cancel, List.drop_left]

/-- Settles O1: a well-formed instruction has an encoding, and the decoder undoes it. -/
theorem decodeInvertsEncode : Obligations.DecodeInvertsEncode := by
  intro i rest wf
  obtain ⟨bytes, encoded⟩ : ∃ bytes, encode i = some bytes :=
    Option.isSome_iff_exists.mp ((Laws.Encodes.all i).trans wf)
  obtain ⟨op, operands, rfl, length⟩ := encode_eq_some encoded
  exact ⟨_, encoded, length, decode_append_of_encode encoded rest⟩

/-- Settles O6: nine fixed strings, evaluated. -/
theorem sampleWordsDecode : Obligations.SampleWordsDecode :=
  ⟨rfl, rfl, rfl, rfl, rfl, rfl, rfl, rfl, rfl⟩

end Sys2Proof
end

section
/-! SUPPORT. The step (30_encoding.md R111) and what every instruction adds to the counters (R113). -/

namespace Sys2Proof.Machine

/-! ## The step -/

/-- The three bytes at PC are enough for any instruction, so they decode to the one the step fetches. -/
theorem State.decode_fetchBytes (s : State) : decode s.fetchBytes = .ok (s.fetch, s.fetchBytes.drop s.fetch.length) := by
  have short := s.fetch.length_le_three
  have long := s.fetch.length_pos
  rw [← Nat.sub_add_cancel long]
  exact if_neg (Nat.not_lt.mpr short)

/-- Settles O7: the bytes at PC decode to the instruction fetched, which is well-formed as any decoded one. -/
theorem stepRunsTheDecodedInstruction : Obligations.StepRunsTheDecodedInstruction := by
  intro s
  refine ⟨fun i rest h => ?_, s.fetch, _, s.decode_fetchBytes, (everyByteStringDecodes _ _ _).1⟩
  rw [s.decode_fetchBytes] at h
  cases h
  rfl

/-! ## The counters -/

/-- The result is a next state that has `cost` and `extra` more cycles than `s`, with balance and ticks as before. -/
def Counts (s : State) (cost extra : Nat) (r : Result) : Prop :=
  ∃ t, r = .next t ∧ t.cycles = s.cycles + cost + extra ∧ t.balance = s.balance ∧ t.ticks = s.ticks

section Counters

variable (s : State)

/-- An instruction whose operation leaves the counters alone adds its cost. -/
theorem complete_counts {length cost : Nat} {body : State → State}
    (h : ∀ u, (body u).cycles = u.cycles ∧ (body u).balance = u.balance ∧ (body u).ticks = u.ticks) :
    Counts s cost 0 (complete length cost body s) := by
  obtain ⟨cycles, balance, ticks⟩ := h (s.advance length)
  exact ⟨_, complete_eq length cost body s, congrArg (· + cost) cycles, balance, ticks⟩

theorem branch_counts (taken : Bool) (d : Byte) :
    Counts s 2 (branchExtra taken (s.pc + 2) (s.pc + 2 + sext d)) (branch taken d s) :=
  ⟨_, branch_eq s taken d, (Nat.add_assoc _ _ _).symm, rfl, rfl⟩

theorem branchExtra_le (taken : Bool) (next target : Word) : branchExtra taken next target ≤ 2 := by
  unfold branchExtra
  split_ifs <;> decide

/-- Every instruction adds its base cost; a branch up to two cycles more (R113, R200). The other instructions'
operations leave the counters alone, field by field as the laws of State say. -/
theorem exec_counts (i : Instr) :
    ∃ extra ≤ 2, (i.mode ≠ .rel → extra = 0) ∧ Counts s (baseCycles s.cfg i) extra (exec i s) := by
  cases i with dsimp only [exec, baseCycles]
  | bcc | bcs | beq | bmi | bne | bpl | bvc | bvs =>
    exact ⟨_, branchExtra_le _ _ _, fun h => absurd rfl h, branch_counts s _ _⟩
  | _ => exact ⟨0, by decide, fun _ => rfl, complete_counts s fun u => by simp⟩

end Counters

/-- Settles O5: the state `exec` answers is the one it counts for. -/
theorem instructionsCostTheirBaseCycles : Obligations.InstructionsCostTheirBaseCycles := by
  intro i s t h
  obtain ⟨extra, le, zero, u, hu, cycles, -, -⟩ := exec_counts s i
  cases h.symm.trans hu
  exact ⟨extra, cycles, le, zero⟩

theorem two_le_memReadCycles (m : MemOperand) : 2 ≤ memReadCycles m := by cases m <;> simp [memReadCycles]
theorem two_le_storeCycles (m : MemOperand) : 2 ≤ storeCycles m := by cases m <;> simp [storeCycles]
theorem two_le_modifyCycles (m : MemOperand) : 2 ≤ modifyCycles m := by cases m <;> simp [modifyCycles]

theorem two_le_readCycles (o : ReadOperand) : 2 ≤ readCycles o := by
  cases o with
  | imm => exact le_rfl
  | mem m => exact two_le_memReadCycles m

theorem two_le_shiftCycles (o : ShiftOperand) : 2 ≤ shiftCycles o := by
  cases o with
  | acc => exact le_rfl
  | mem m => exact two_le_modifyCycles m

/-- No instruction costs less than two cycles, if an undefined opcode does not (R273). -/
theorem two_le_baseCycles {cfg : Config} (h : 2 ≤ cfg.undefCycles) (i : Instr) : 2 ≤ baseCycles cfg i := by
  cases i with
  | lda o | ldx o | ldy o | adc o | sbc o | and o | ora o | eor o | cmp o | cpx o | cpy o => exact two_le_readCycles o
  | sta m | stx m | sty m => exact two_le_storeCycles m
  | bit m => exact two_le_memReadCycles m
  | inc m | dec m => exact two_le_modifyCycles m
  | asl o | lsr o | rol o | ror o => exact two_le_shiftCycles o
  | jmp o => cases o <;> simp [baseCycles, jumpCycles]
  | und => exact h
  | _ => simp [baseCycles]

/-- Settles O8: the instruction at PC completes and counts, and it keeps the ROM images and the configuration. -/
theorem everyStepCompletes : Obligations.EveryStepCompletes := by
  intro s
  obtain ⟨extra, -, -, t, ht, cycles, balance, ticks⟩ := exec_counts s s.fetch
  have keeps := exec_keeps ht
  refine ⟨t, ht, balance, ticks, keeps.roms, keeps.cfg, fun h => ?_⟩
  have := two_le_baseCycles h s.fetch
  omega

end Sys2Proof.Machine
end

section
/-! SUPPORT. Effective addresses as numbers (30_encoding.md R117–R125). -/

namespace Sys2Proof.Machine

/-- Settles O19: each address is a zero-extended byte, a byte sum, or a word sum. -/
theorem directEffectiveAddresses : Obligations.DirectEffectiveAddresses := by
  intro s b w
  refine ⟨zext_toNat b, ?_, ?_, rfl, ?_, ?_⟩
  · exact (zext_toNat _).trans (BitVec.toNat_add b s.x)
  · exact (zext_toNat _).trans (BitVec.toNat_add b s.y)
  · rw [State.ea, BitVec.toNat_add, zext_toNat]
  · rw [State.ea, BitVec.toNat_add, zext_toNat]

theorem zext_ofNat (n : Nat) : zext (BitVec.ofNat 8 n) = BitVec.ofNat 16 (n % 256) := by
  apply BitVec.eq_of_toNat_eq
  rw [zext_toNat, BitVec.toNat_ofNat, BitVec.toNat_ofNat]
  omega

/-- A zero-page pointer as a number: its two bytes are RAM bytes of page zero, the second one's address taken modulo
256 (R124, R125). -/
theorem State.zeroPagePointer_toNat (s : State) (n : Nat) :
    (s.zeroPagePointer (BitVec.ofNat 8 n)).toNat =
      (s.ram (BitVec.ofNat 16 (n % 256))).toNat + 256 * (s.ram (BitVec.ofNat 16 ((n + 1) % 256))).toNat := by
  have next : BitVec.ofNat 8 n + 1 = BitVec.ofNat 8 (n + 1) := (BitVec.ofNat_add n 1).symm
  rw [State.zeroPagePointer, join_toNat, next, s.read_zeroPage, s.read_zeroPage, zext_ofNat, zext_ofNat]

/-- Settles O20: the pointer stands at the byte sum, or at the operand with Y added to what it points to. -/
theorem pointerEffectiveAddresses : Obligations.PointerEffectiveAddresses := by
  intro s b pointer
  constructor
  · have sum : b + s.x = BitVec.ofNat 8 (b.toNat + s.x.toNat) := by simp [BitVec.ofNat_add]
    rw [State.ea, sum, s.zeroPagePointer_toNat]
  · have atOperand := s.zeroPagePointer_toNat b.toNat
    rw [BitVec.ofNat_toNat, BitVec.setWidth_eq] at atOperand
    rw [State.ea, BitVec.toNat_add, zext_toNat, atOperand]

end Sys2Proof.Machine
end

section
/-! SUPPORT. Loads, stores and transfers (40_load_store_transfer.md): writing one register named by `Reg`, how a frame
grows when flags are set, and the one shape all loads and transfers complete in. -/

namespace Sys2Proof.Machine

/-! ## Writing a register by name -/

/-- Replaces the register named. -/
def State.withReg (s : State) : Reg → Byte → State
  | .a => s.withA
  | .x => s.withX
  | .y => s.withY
  | .sp => s.withSp

section Registers

variable (s : State) (r : Reg) (v : Byte)

@[simp] theorem State.reg_withReg (q : Reg) : (s.withReg r v).reg q = if q = r then v else s.reg q := by
  cases r <;> cases q <;> rfl

@[simp] theorem State.withReg_pc : (s.withReg r v).pc = s.pc := by cases r <;> rfl
@[simp] theorem State.withReg_cycles : (s.withReg r v).cycles = s.cycles := by cases r <;> rfl

theorem State.frame_withReg : Frame s (s.withReg r v) [r] [] noStore := by
  have others : ∀ q, q ∉ [r] → (s.withReg r v).reg q = s.reg q := fun q h =>
    (s.reg_withReg r v q).trans (if_neg (List.ne_of_not_mem_cons h))
  cases r <;> exact ⟨others, fun _ _ => rfl, fun _ _ => rfl, rfl, rfl, rfl, rfl⟩

end Registers

/-! ## Frames and flags -/

section Flags

variable {s t : State} {regs : List Reg} {flags : List Flag} {stored : Word → Prop}

/-- Setting a flag adds that flag to what changed. -/
theorem Frame.setFlag (h : Frame s t regs flags stored) (f : Flag) (b : Bool) :
    Frame s (t.setFlag f b) regs (f :: flags) stored := by
  obtain ⟨hregs, hflags, others⟩ := h
  refine ⟨hregs, fun g hg => ?_, others⟩
  rw [List.mem_cons, not_or] at hg
  rw [State.flag_setFlag, if_neg hg.1, hflags g hg.2]

/-- `SetNZ` adds N and Z to what changed. -/
theorem Frame.setNZ (h : Frame s t regs flags stored) (v : Byte) :
    Frame s (t.setNZ v) regs (.n :: .z :: flags) stored :=
  (h.setFlag .z _).setFlag .n _

theorem State.showsNZ_setNZ (s : State) (v : Byte) : ShowsNZ (s.setNZ v) v := by simp [ShowsNZ]

end Flags

/-! ## Completion -/

section Completion

variable {i : Instr} {s : State} {length cost : Nat} {v : Byte} {source : State → Byte}

/-- An instruction that puts a value, the same before and after its bytes are passed, into a register and sets N and Z
of it. -/
theorem completes_load (r : Reg)
    (h : exec i s = complete length cost (fun t => (t.withReg r (source t)).setNZ (source t)) s)
    (hv : source (s.advance length) = v) :
    Completes i s (fun t => t.reg r = v ∧ ShowsNZ t v ∧ PassedBy s t length cost ∧ Frame s t [r] [.n, .z] noStore) := by
  rw [complete_eq, hv] at h
  have value : ((s.advance length).withReg r v).reg r = v := by simp
  have pc : ((s.advance length).withReg r v).pc = s.pc + BitVec.ofNat 16 length := by simp
  have cycles : ((s.advance length).withReg r v).cycles = s.cycles := by simp
  have frame := ((s.advance length).frame_withReg r v).setNZ v
  exact ⟨_, h, value, State.showsNZ_setNZ _ v, ⟨pc, congrArg (· + cost) cycles⟩, frame⟩

/-- An instruction that writes a value, the same before and after its bytes are passed, on the bus at the effective
address of its operand. -/
theorem completes_store {m : MemOperand}
    (h : exec i s = complete length cost (fun t => t.write (t.ea m) (source t)) s)
    (hv : source (s.advance length) = v) :
    Completes i s (fun t => (∀ a, t.ram a = (s.write (s.ea m) v).ram a) ∧ PassedBy s t length cost ∧
      Frame s t [] [] (fun a => a = s.ea m)) := by
  rw [complete_eq, s.ea_advance, hv] at h
  exact ⟨_, h, fun _ => rfl, ⟨rfl, rfl⟩, (s.advance length).frame_write (s.ea m) v⟩

end Completion

/-! ## The instructions -/

/-- Settles O21: each load puts its operand into its register, for an operand does not depend on PC. -/
theorem loadsFillTheirRegister : Obligations.LoadsFillTheirRegister := by
  intro o s
  refine ⟨?_, ?_, ?_, rfl, rfl, rfl⟩
  · exact completes_load .a (exec_lda s o) (s.operand_advance _ o)
  · exact completes_load .x (exec_ldx s o) (s.operand_advance _ o)
  · exact completes_load .y (exec_ldy s o) (s.operand_advance _ o)

/-- Settles O22: each store is one bus write of its register, at an address that does not depend on PC. -/
theorem storesWriteTheirRegister : Obligations.StoresWriteTheirRegister := by
  intro m s
  refine ⟨?_, ?_, ?_, rfl, rfl, rfl, fun _ _ => ⟨rfl, rfl, rfl⟩⟩
  · exact completes_store (exec_sta s m) (s.advance_a _)
  · exact completes_store (exec_stx s m) (s.advance_x _)
  · exact completes_store (exec_sty s m) (s.advance_y _)

/-- Settles O23: five transfers are loads of their source register; TXS writes SP and sets no flag. -/
theorem transfersCopyRegisters : Obligations.TransfersCopyRegisters := by
  intro s
  refine ⟨?_, ?_, ?_, ?_, ?_, ?_, rfl, rfl, rfl, rfl, rfl, rfl⟩
  · exact completes_load .x (exec_tax s) (s.advance_a 1)
  · exact completes_load .y (exec_tay s) (s.advance_a 1)
  · exact completes_load .a (exec_txa s) (s.advance_x 1)
  · exact completes_load .a (exec_tya s) (s.advance_y 1)
  · exact completes_load .x (exec_tsx s) (s.advance_sp 1)
  · exact ⟨_, exec_txs s, rfl, ⟨rfl, rfl⟩, (s.advance 1).frame_withReg .sp s.x⟩

end Sys2Proof.Machine
end

section
/-! SUPPORT. Arithmetic and logic (41_arithmetic_logic.md): sums and differences of bytes as unsigned and signed
numbers, and one shape of completion for each operation that instructions share. -/

namespace Sys2Proof.Machine

/-! ## Sums and differences of bytes -/

/-- The sign bit of a byte as a bound on its number. -/
theorem byte_getLsbD_seven (b : Byte) : b.getLsbD 7 = decide (128 ≤ b.toNat) :=
  b.msb_eq_getLsbD_last.symm.trans b.msb_eq_decide

/-- V of an addition of bytes with a carry-in is signed overflow (R185): by the signs of the two operands. -/
theorem overflow_addCarry (a b : Byte) {c : Nat} (hc : c ≤ 1) {n : Int} (hn : a.toInt + b.toInt + c = n) :
    overflow a b (addCarry a b c).value = !decide (-128 ≤ n ∧ n ≤ 127) := by
  have sum := (addCarry_spec a b c hc).1
  have := a.isLt
  have := b.isLt
  rw [BitVec.toInt_eq_toNat_cond, BitVec.toInt_eq_toNat_cond] at hn
  rw [overflow_eq, Bool.eq_iff_iff]
  simp only [byte_getLsbD_seven, sum]
  by_cases ha : 128 ≤ a.toNat <;> by_cases hb : 128 ≤ b.toNat <;> simp [ha, hb] <;> omega

theorem complement_toInt (m : Byte) : (complement m).toInt = -1 - m.toInt := by
  revert m
  decide

theorem State.carryIn_toInt (s : State) : (s.carryIn : Int) = if s.flag .c then 1 else 0 := by
  unfold State.carryIn
  split <;> rfl

/-- The borrow that SBC takes from C is one less C, the carry its addition of the complement takes (R171). -/
theorem State.borrow_eq (s : State) : (if s.flag .c then 0 else 1 : Int) = 1 - s.carryIn := by
  unfold State.carryIn
  split <;> rfl

/-- The exact difference with borrow is the exact sum with the complement, less 256 (R171). -/
theorem State.difference_eq (s : State) (m : Byte) :
    (s.a.toNat : Int) - m.toNat - (if s.flag .c then 0 else 1) =
      (s.a.toNat + (complement m).toNat + s.carryIn : Nat) - 256 := by
  have := (complement_spec m).1
  have := m.isLt
  rw [s.borrow_eq]
  omega

theorem byte_sub_one_toNat (b : Byte) : (b - 1).toNat = (b.toNat + 255) % 256 := by
  rw [BitVec.toNat_sub, Nat.add_comm]
  rfl

/-! ## Frames -/

section Frame

variable {s t : State} {regs : List Reg} {flags flags' : List Flag} {stored : Word → Prop}

/-- Naming more flags as changed, or the same in another order. -/
theorem Frame.mono_flags (h : Frame s t regs flags stored) (le : flags ⊆ flags') : Frame s t regs flags' stored := by
  obtain ⟨hregs, hflags, others⟩ := h
  exact ⟨hregs, fun f hf => hflags f fun hmem => hf (le hmem), others⟩

/-- Writing a register adds that register to what changed. -/
theorem Frame.withReg (h : Frame s t regs flags stored) (r : Reg) (v : Byte) :
    Frame s (t.withReg r v) (r :: regs) flags stored := by
  obtain ⟨hregs, hflags, hram, hbalance, hticks, hroms, hcfg⟩ := h
  obtain ⟨-, flag, ram, balance, ticks, roms, cfg⟩ := t.frame_withReg r v
  refine ⟨fun q hq => ?_, fun f hf => (flag f List.not_mem_nil).trans (hflags f hf),
    fun a ha => (ram a id).trans (hram a ha), balance.trans hbalance, ticks.trans hticks, roms.trans hroms,
    cfg.trans hcfg⟩
  rw [List.mem_cons, not_or] at hq
  rw [State.reg_withReg, if_neg hq.1, hregs q hq.2]

/-- Cycles are not part of a frame. -/
theorem Frame.spend (h : Frame s t regs flags stored) (cost : Nat) : Frame s (t.spend cost) regs flags stored := h

end Frame

section Frames

variable (s : State)

/-- Passing over an instruction's bytes changes nothing a frame speaks of. -/
theorem State.frame_advance (n : Nat) : Frame s (s.advance n) [] [] noStore :=
  ⟨fun r _ => by cases r <;> rfl, fun _ _ => rfl, fun _ _ => rfl, rfl, rfl, rfl, rfl⟩

theorem State.frame_addToA_advance (n : Nat) (b : Byte) :
    Frame s ((s.advance n).addToA b) [.a] [.n, .v, .z, .c] noStore :=
  Frame.mono_flags (((((s.frame_advance n).setFlag .c _).setFlag .v _).withReg .a _).setNZ _) (by decide)

theorem State.frame_compare_advance (n : Nat) (r m : Byte) :
    Frame s ((s.advance n).compare r m) [] [.n, .z, .c] noStore :=
  ((s.frame_advance n).setFlag .c _).setNZ _

theorem State.frame_testBits_advance (n : Nat) (m : Byte) :
    Frame s ((s.advance n).testBits m) [] [.n, .v, .z] noStore :=
  Frame.mono_flags ((((s.frame_advance n).setFlag .z _).setFlag .n _).setFlag .v _) (by decide)

end Frames

/-! ## Completion -/

section Completion

variable {i : Instr} {s : State} {length cost : Nat} {r : Byte} {source : State → Byte}

/-- A load leaves in its register a byte with whatever property the value has, and N and Z of that byte. -/
theorem completes_load_of {p : Byte → Prop} (q : Reg)
    (h : exec i s = complete length cost (fun t => (t.withReg q (source t)).setNZ (source t)) s)
    (hp : p (source (s.advance length))) :
    Completes i s (fun t => p (t.reg q) ∧ ShowsNZ t (t.reg q) ∧ PassedBy s t length cost ∧
      Frame s t [q] [.n, .z] noStore) := by
  obtain ⟨t, ht, value, shows, others⟩ := completes_load q h rfl
  rw [← value] at shows hp
  exact ⟨t, ht, hp, shows, others⟩

/-- An instruction that adds to A what `g` makes of its operand, with the carry-in (R170, R171). -/
theorem completes_addToA {g : Byte → Byte} {o : ReadOperand}
    (h : exec i s = complete length cost (fun t => t.addToA (g (t.operand o))) s) :
    Completes i s (fun t =>
      t.a = (addCarry s.a (g (s.operand o)) s.carryIn).value ∧
      t.flag .c = (addCarry s.a (g (s.operand o)) s.carryIn).carry ∧
      t.flag .v = overflow s.a (g (s.operand o)) t.a ∧
      ShowsNZ t t.a ∧ PassedBy s t length cost ∧ Frame s t [.a] [.n, .v, .z, .c] noStore) := by
  rw [complete_eq, s.operand_advance] at h
  refine ⟨_, h, ?_, ?_, ?_, ⟨?_, ?_⟩, ⟨?_, ?_⟩, (s.frame_addToA_advance _ _).spend _⟩ <;> simp [State.flag_addToA]

/-- An instruction that compares a register with its operand (R176). -/
theorem completes_compare {o : ReadOperand}
    (h : exec i s = complete length cost (fun t => t.compare (source t) (t.operand o)) s)
    (hr : source (s.advance length) = r) :
    Completes i s (fun t =>
      t.flag .c = decide ((s.operand o).toNat ≤ r.toNat) ∧ t.flag .z = (r == s.operand o) ∧
      t.flag .n = (r - s.operand o).getLsbD 7 ∧ PassedBy s t length cost ∧ Frame s t [] [.n, .z, .c] noStore) := by
  rw [complete_eq, s.operand_advance, hr] at h
  obtain ⟨value, carry⟩ := compareCarry_spec r (s.operand o)
  have zero : r - s.operand o = 0#8 ↔ r = s.operand o := sub_eq_zero
  refine ⟨_, h, ?_, ?_, ?_, ⟨?_, ?_⟩, (s.frame_compare_advance _ _ _).spend _⟩ <;>
    simp [State.flag_compare, value, carry, zero]

/-- An instruction that replaces the byte at the effective address by `f` of it (R179, R180). -/
theorem completes_modify {m : MemOperand} {f : Byte → Byte}
    (h : exec i s = complete length cost (fun t => t.modify (t.ea m) f) s) (hr : f (s.read (s.ea m)) = r) :
    Completes i s (fun t => (∀ a, t.ram a = (s.write (s.ea m) r).ram a) ∧ ShowsNZ t r ∧
      PassedBy s t length cost ∧ Frame s t [] [.n, .z] (fun a => a = s.ea m)) := by
  rw [complete_eq, s.ea_advance, State.modify, s.read_advance, hr] at h
  have frame := ((s.advance length).frame_write (s.ea m) r).setNZ r
  exact ⟨_, h, fun _ => rfl, State.showsNZ_setNZ _ r, ⟨rfl, rfl⟩, frame.spend cost⟩

end Completion

/-! ## The instructions -/

/-- Settles O24: the sum and its carry are those of the shared addition, V is read off the sign bits. -/
theorem adcAddsWithCarry : Obligations.AdcAddsWithCarry := by
  intro o s
  obtain ⟨t, ht, value, carry, overflows, others⟩ := completes_addToA (g := id) (exec_adc s o)
  obtain ⟨sum, bit8⟩ := addCarry_spec s.a (s.operand o) s.carryIn s.carryIn_le
  refine ⟨⟨t, ht, ?_, ?_, ?_, others⟩, rfl⟩
  · exact (congrArg BitVec.toNat value).trans sum
  · exact carry.trans bit8
  · rw [overflows, overflow_eq]
    simp

/-- Settles O25: the subtraction is the addition of the complement, which is 256 more and has the other sign bit. -/
theorem sbcSubtractsWithBorrow : Obligations.SbcSubtractsWithBorrow := by
  intro o s
  obtain ⟨t, ht, value, carry, overflows, others⟩ := completes_addToA (g := complement) (exec_sbc s o)
  obtain ⟨sum, bit8⟩ := addCarry_spec s.a (complement (s.operand o)) s.carryIn s.carryIn_le
  refine ⟨⟨t, ht, ?_, ?_, ?_, others⟩, rfl⟩
  · rw [s.difference_eq, value, sum]
    omega
  · rw [s.difference_eq, carry, bit8]
    apply decide_eq_decide.mpr
    omega
  · rw [overflows, overflow_eq, (complement_spec _).2]
    cases s.a.getLsbD 7 <;> cases (s.operand o).getLsbD 7 <;> simp

/-- Settles O26: V of the shared addition is signed overflow, and the complement of M is −1 − M. -/
theorem overflowIsSignedOverflow : Obligations.OverflowIsSignedOverflow := by
  intro o s t
  constructor
  · intro ht
    obtain ⟨u, hu, value, -, overflows, -⟩ := completes_addToA (g := id) (exec_adc s o)
    cases ht.symm.trans hu
    rw [overflows, value]
    exact overflow_addCarry _ _ s.carryIn_le (by rw [s.carryIn_toInt]; rfl)
  · intro ht
    obtain ⟨u, hu, value, -, overflows, -⟩ := completes_addToA (g := complement) (exec_sbc s o)
    cases ht.symm.trans hu
    rw [overflows, value]
    exact overflow_addCarry _ _ s.carryIn_le (by rw [complement_toInt, s.borrow_eq]; ring)

/-- Settles O28: each is a load of A with the bitwise result. -/
theorem logicOnTheAccumulator : Obligations.LogicOnTheAccumulator := by
  intro o s
  refine ⟨?_, ?_, ?_, rfl, rfl, rfl⟩
  · exact completes_load_of (p := (· = s.a &&& s.operand o)) .a (exec_and s o) (by simp)
  · exact completes_load_of (p := (· = s.a ||| s.operand o)) .a (exec_ora s o) (by simp)
  · exact completes_load_of (p := (· = s.a ^^^ s.operand o)) .a (exec_eor s o) (by simp)

/-- Settles O29: the three flags of the byte read, which does not depend on PC. -/
theorem bitTestsMemory : Obligations.BitTestsMemory := by
  intro m s
  have byte : s.operand (.mem m) = s.read (s.ea m) := rfl
  have h := exec_bit s m
  rw [complete_eq, s.operand_advance, byte] at h
  refine ⟨⟨_, h, ?_, ?_, ?_, ⟨?_, ?_⟩, (s.frame_testBits_advance _ _).spend _⟩, rfl⟩ <;>
    simp [State.flag_testBits]

/-- Settles O30: each compares its register, which does not depend on PC. -/
theorem comparisonsSetFlags : Obligations.ComparisonsSetFlags := by
  intro o s
  refine ⟨?_, rfl, rfl, rfl⟩
  rintro i r (⟨rfl, rfl⟩ | ⟨rfl, rfl⟩ | ⟨rfl, rfl⟩)
  · exact completes_compare (exec_cmp s o) (s.advance_a _)
  · exact completes_compare (exec_cpx s o) (s.advance_x _)
  · exact completes_compare (exec_cpy s o) (s.advance_y _)

/-- Settles O31: one write of the byte computed, whose flags are set whatever the bus made of it. -/
theorem incrementsAndDecrementsMemory : Obligations.IncrementsAndDecrementsMemory := by
  intro m s
  refine ⟨?_, rfl, rfl⟩
  rintro i r (⟨rfl, rfl⟩ | ⟨rfl, rfl⟩)
  · exact completes_modify (exec_inc s m) rfl
  · exact completes_modify (exec_dec s m) rfl

/-- Settles O32: each is a load of the index register with its byte plus or minus one. -/
theorem indexIncrementsAndDecrements : Obligations.IndexIncrementsAndDecrements := by
  intro s
  refine ⟨?_, ?_, ?_, ?_, rfl, rfl, rfl, rfl⟩
  · exact completes_load_of (p := (·.toNat = (s.x.toNat + 1) % 256)) .x (exec_inx s) (BitVec.toNat_add s.x 1)
  · exact completes_load_of (p := (·.toNat = (s.y.toNat + 1) % 256)) .y (exec_iny s) (BitVec.toNat_add s.y 1)
  · exact completes_load_of (p := (·.toNat = (s.x.toNat + 255) % 256)) .x (exec_dex s) (byte_sub_one_toNat s.x)
  · exact completes_load_of (p := (·.toNat = (s.y.toNat + 255) % 256)) .y (exec_dey s) (byte_sub_one_toNat s.y)

end Sys2Proof.Machine
end

section
/-! SUPPORT. Shifts and rotates (42_shift_rotate.md): their results as numbers, and the one shape the four complete
in on the accumulator and on memory. -/

namespace Sys2Proof.Machine

/-! ## Results as numbers -/

/-- ROL appends the old carry below the byte, which moves the byte's bit 7 to bit 8 (R192). -/
theorem rotateLeft_spec (v : Byte) (c : Bool) :
    (rotateLeft v c).value.toNat = (v.toNat * 2 + c.toNat) % 256 ∧ (rotateLeft v c).carry = v.getLsbD 7 := by
  have append : v.toNat * 2 + c.toNat = Nat.bit c v.toNat := by rw [Nat.bit_val, Nat.mul_comm]
  refine ⟨BitVec.toNat_ofNat _ _, ?_⟩
  calc (v.toNat * 2 + c.toNat).testBit (7 + 1)
    _ = (Nat.bit c v.toNat).testBit (7 + 1) := by rw [append]
    _ = v.getLsbD 7 := Nat.testBit_bit_succ 7 c v.toNat

/-- ASL is ROL with 0 entering, whatever the old carry (R190). -/
theorem shiftLeft_spec (v : Byte) (c : Bool) :
    (shiftLeft v c).value.toNat = v.toNat * 2 % 256 ∧ (shiftLeft v c).carry = v.getLsbD 7 :=
  rotateLeft_spec v false

theorem byte_shiftRight_one_toNat (v : Byte) : (v >>> 1).toNat = v.toNat / 2 := by
  rw [BitVec.toNat_ushiftRight, Nat.shiftRight_one]

/-- ROR puts the old carry at bit 7, above the half, which is below 128 (R193). -/
theorem rotateRight_value_toNat (v : Byte) (c : Bool) :
    (rotateRight v c).value.toNat = c.toNat * 128 + v.toNat / 2 := by
  have half : v.toNat / 2 < 2 ^ 7 := by have := v.isLt; omega
  have carry : ((if c then 0x80 else 0x00 : Nat) : Byte).toNat = 2 ^ 7 * c.toNat := by cases c <;> rfl
  rw [rotateRight, BitVec.toNat_or, carry, byte_shiftRight_one_toNat, ← Nat.two_pow_add_eq_or_of_lt half,
    Nat.mul_comm]

/-! ## Completion -/

section Completion

variable {i : Instr} {s : State} {length cost : Nat} {f : Byte → Bool → Carried}

/-- Each of the four instructions shifts its operand by its function (R190–R194). -/
theorem exec_shift (s : State) {o : ShiftOperand}
    (h : (i = .asl o ∧ f = shiftLeft) ∨ (i = .lsr o ∧ f = shiftRight) ∨ (i = .rol o ∧ f = rotateLeft) ∨
      (i = .ror o ∧ f = rotateRight)) :
    exec i s = complete o.mode.length (shiftCycles o) (fun t => t.shift o f) s := by
  obtain ⟨rfl, rfl⟩ | ⟨rfl, rfl⟩ | ⟨rfl, rfl⟩ | ⟨rfl, rfl⟩ := h
  · exact exec_asl s o
  · exact exec_lsr s o
  · exact exec_rol s o
  · exact exec_ror s o

/-- An instruction that shifts A (R194). -/
theorem completes_shift_acc (h : exec i s = complete length cost (fun t => t.shift .acc f) s) :
    Completes i s (fun t => t.a = (f s.a (s.flag .c)).value ∧ t.flag .c = (f s.a (s.flag .c)).carry ∧
      ShowsNZ t t.a ∧ PassedBy s t length cost ∧ Frame s t [.a] [.n, .z, .c] noStore) := by
  rw [complete_eq, State.shift, s.advance_a, s.flag_advance] at h
  generalize f s.a (s.flag .c) = r at h ⊢
  have frame := (((s.frame_advance length).setFlag .c r.carry).withReg .a r.value).setNZ r.value
  exact ⟨_, h, rfl, by simp, State.showsNZ_setNZ _ _, ⟨rfl, rfl⟩, frame.spend cost⟩

/-- An instruction that shifts the byte at the effective address (R194). -/
theorem completes_shift_mem {m : MemOperand} (h : exec i s = complete length cost (fun t => t.shift (.mem m) f) s) :
    Completes i s (fun t =>
      let r := f (s.read (s.ea m)) (s.flag .c)
      (∀ a, t.ram a = (s.write (s.ea m) r.value).ram a) ∧ t.flag .c = r.carry ∧ ShowsNZ t r.value ∧
      PassedBy s t length cost ∧ Frame s t [] [.n, .z, .c] (fun a => a = s.ea m)) := by
  rw [complete_eq, State.shift, s.ea_advance, s.read_advance, s.flag_advance] at h
  generalize f (s.read (s.ea m)) (s.flag .c) = r at h ⊢
  have frame := (((s.advance length).frame_write (s.ea m) r.value).setFlag .c r.carry).setNZ r.value
  exact ⟨_, h, fun _ => rfl, by simp, State.showsNZ_setNZ _ _, ⟨rfl, rfl⟩, frame.spend cost⟩

end Completion

/-! ## The instructions -/

/-- Settles O34: each of the four is a shift of A. -/
theorem shiftsOfTheAccumulator : Obligations.ShiftsOfTheAccumulator :=
  fun s _ _ h => completes_shift_acc (exec_shift s h)

/-- Settles O35: each of the four is a shift of memory, one bus write of the result. -/
theorem shiftsOfMemory : Obligations.ShiftsOfMemory :=
  fun s _ _ _ h => completes_shift_mem (exec_shift s h)

/-- Settles O33: the left shifts double the byte, the right shifts halve it; the encodings are the table's. -/
theorem shiftArithmetic : Obligations.ShiftArithmetic := by
  intro v c o
  refine ⟨?asl, ?lsr, ?rol, ?ror, rfl, rfl, rfl, rfl⟩
  case asl => exact shiftLeft_spec v c
  case lsr => exact ⟨byte_shiftRight_one_toNat v, rfl⟩
  case rol => exact rotateLeft_spec v c
  case ror => exact ⟨rotateRight_value_toNat v c, rfl⟩

end Sys2Proof.Machine
end

section
/-! SUPPORT. Control flow (43_control_flow.md): branch and jump targets as numbers, what a branch leaves, and the stack
bytes by which RTS returns from JSR. -/

namespace Sys2Proof.Machine

/-! ## Targets -/

/-- A displacement is added to the address after the branch as a signed number, modulo 65536 (R126, R200). -/
theorem branchTarget_toNat (pc : Word) (d : Byte) :
    ((pc + 2 + sext d).toNat : Int) = ((pc.toNat : Int) + 2 + d.toInt) % 65536 := by
  have displacement := sext_toInt d
  rw [BitVec.toInt_eq_toNat_cond] at displacement
  have sum : (pc + 2 + sext d).toNat = ((pc.toNat + 2) % 65536 + (sext d).toNat) % 65536 := by
    rw [BitVec.toNat_add, BitVec.toNat_add]
    rfl
  omega

/-- Two addresses are on one page exactly if their quotients by 256 are equal. -/
theorem hi_eq_hi_iff (v w : Word) : hi v = hi w ↔ v.toNat / 256 = w.toNat / 256 := by
  rw [← BitVec.toNat_inj, hi_toNat, hi_toNat]

/-- The cost of a taken branch, by the pages of the two addresses as numbers (R200). -/
theorem taken_cost (next target : Word) :
    2 + branchExtra true next target = if target.toNat / 256 = next.toNat / 256 then 3 else 4 := by
  rw [branchExtra, if_pos rfl, apply_ite (2 + ·)]
  exact if_congr (hi_eq_hi_iff target next) rfl rfl

/-- The address after `w` within the page of `w`: the page's first byte after its last (R123). -/
theorem join_hi_lo_add_one (w : Word) : join (hi w) (lo w + 1) = if w.toNat % 256 = 255 then w - 255 else w + 1 := by
  apply BitVec.eq_of_toNat_eq
  have low : (lo w + 1).toNat = (w.toNat % 256 + 1) % 256 := by rw [BitVec.toNat_add, lo_toNat]; rfl
  rw [join_toNat, hi_toNat, low]
  split_ifs <;> bv_omega

section Jump

variable (s : State)

/-- A jump's target does not depend on PC. -/
theorem State.jumpTarget_advance (n : Nat) (o : JumpOperand) : (s.advance n).jumpTarget o = s.jumpTarget o := by
  cases o <;> rfl

/-- The word behind a pointer, its high byte read on the pointer's own page when the configuration says so (R123). -/
theorem State.jumpTarget_ind (w : Word) :
    s.jumpTarget (.ind w) = join
      (s.read (if s.cfg.jmpIndPageWrap = true ∧ w.toNat % 256 = 255 then w - 255 else w + 1)) (s.read w) := by
  rw [ite_and, ← join_hi_lo_add_one]
  rfl

end Jump

/-! ## Frames -/

section Frames

variable {s t : State} {regs : List Reg} {flags : List Flag} {stored : Word → Prop}

/-- PC is not part of a frame. -/
theorem Frame.withPc (h : Frame s t regs flags stored) (w : Word) : Frame s (t.withPc w) regs flags stored := h

theorem Frame.cfg_eq (h : Frame s t regs flags stored) : t.cfg = s.cfg := by
  obtain ⟨-, -, -, -, -, -, cfg⟩ := h
  exact cfg

/-- With the stack page in plain RAM, pushing a word changes SP and the two bytes at and below it. -/
theorem State.frame_pushWord (s : State) (h : s.StackPlain) (w : Word) :
    Frame s (s.pushWord w) [.sp] [] (fun a => a = s.stackAddr s.sp ∨ a = s.stackAddr (s.sp - 1)) := by
  refine .of_fields (.inr (s.pushWord_a w)) (.inr (s.pushWord_x w)) (.inr (s.pushWord_y w))
    (.inl (List.mem_singleton_self _)) (fun f _ => s.flag_pushWord w f) (fun a ha => ?_) (s.pushWord_balance w)
    (s.pushWord_ticks w) (s.pushWord_roms w) (s.pushWord_cfg w)
  rw [not_or] at ha
  rw [s.ram_pushWord w a h, if_neg ha.2, if_neg ha.1]

/-- Pulling a word changes SP alone. -/
theorem State.frame_pullWord (s : State) : Frame s s.pullWord.2 [.sp] [] noStore :=
  s.frame_withReg .sp (s.sp + 1 + 1)

end Frames

/-! ## The stack bytes of a word -/

section Stack

variable (s : State) (h : s.StackPlain) (w : Word)

include h

theorem State.ram_pushWord_low : (s.pushWord w).ram (s.stackAddr (s.sp - 1)) = lo w := by
  rw [s.ram_pushWord w _ h, if_pos rfl]

theorem State.ram_pushWord_high : (s.pushWord w).ram (s.stackAddr s.sp) = hi w := by
  have apart : s.stackAddr s.sp ≠ s.stackAddr (s.sp - 1) := fun e =>
    absurd (sub_eq_self.mp (s.stackAddr_inj e).symm) (by decide)
  rw [s.ram_pushWord w _ h, if_neg apart, if_pos rfl]

end Stack

/-! ## The instructions -/

/-- What a branch leaves, by whether it is taken (R200). -/
theorem completes_branch {i : Instr} {s : State} {taken : Bool} {d : Byte} (h : exec i s = branch taken d s) :
    Completes i s (fun t =>
      (taken = false → t.pc = s.pc + 2 ∧ t.cycles = s.cycles + 2) ∧
      (taken = true →
        (t.pc.toNat : Int) = ((s.pc.toNat : Int) + 2 + d.toInt) % 65536 ∧
        t.cycles = s.cycles + (if t.pc.toNat / 256 = (s.pc + 2).toNat / 256 then 3 else 4)) ∧
      Frame s t [] [] noStore) := by
  rw [branch_eq] at h
  refine ⟨_, h, ?next, ?target, s.frame_advance 2⟩
  case next =>
    rintro rfl
    exact ⟨rfl, rfl⟩
  case target =>
    rintro rfl
    exact ⟨branchTarget_toNat s.pc d, congrArg (s.cycles + ·) (taken_cost (s.pc + 2) (s.pc + 2 + sext d))⟩

/-- Settles O36: each of the eight is the branch rule with its own condition. -/
theorem branchesFollowTheirFlag : Obligations.BranchesFollowTheirFlag := by
  intro s d op i taken h
  obtain ⟨rfl, rfl, rfl⟩ | ⟨rfl, rfl, rfl⟩ | ⟨rfl, rfl, rfl⟩ | ⟨rfl, rfl, rfl⟩ | ⟨rfl, rfl, rfl⟩ | ⟨rfl, rfl, rfl⟩ |
    ⟨rfl, rfl, rfl⟩ | ⟨rfl, rfl, rfl⟩ := h
  · exact ⟨rfl, completes_branch (exec_bcc s d)⟩
  · exact ⟨rfl, completes_branch (exec_bcs s d)⟩
  · exact ⟨rfl, completes_branch (exec_bne s d)⟩
  · exact ⟨rfl, completes_branch (exec_beq s d)⟩
  · exact ⟨rfl, completes_branch (exec_bpl s d)⟩
  · exact ⟨rfl, completes_branch (exec_bmi s d)⟩
  · exact ⟨rfl, completes_branch (exec_bvc s d)⟩
  · exact ⟨rfl, completes_branch (exec_bvs s d)⟩

theorem completes_jmp (s : State) (o : JumpOperand) :
    Completes (.jmp o) s (fun t => t.pc = s.jumpTarget o ∧ t.cycles = s.cycles + jumpCycles o ∧
      Frame s t [] [] noStore) :=
  ⟨_, exec_jmp s o, s.jumpTarget_advance _ o, rfl, ((s.frame_advance _).withPc _).spend _⟩

/-- Settles O37: both forms go to their target, which for the pointer is the word read with or without the wrap. -/
theorem jumpTargets : Obligations.JumpTargets := by
  intro s w
  refine ⟨completes_jmp s (.abs w), ?_, rfl⟩
  rw [← s.jumpTarget_ind]
  exact completes_jmp s (.ind w)

/-- Settles O38: the word pushed is the address of the JSR's last byte, one before the next instruction. -/
theorem jsrPushesItsLastByte : Obligations.JsrPushesItsLastByte := by
  intro s w h
  have last : (s.advance 3).pc - 1 = s.pc + 2 := add_sub_assoc s.pc 3 1
  have completed := exec_jsr s w
  rw [complete_eq, last] at completed
  have sp := (s.advance 3).pushWord_sp (s.pc + 2)
  have cycles := (s.advance 3).pushWord_cycles (s.pc + 2)
  have high := (s.advance 3).ram_pushWord_high h (s.pc + 2)
  have low := (s.advance 3).ram_pushWord_low h (s.pc + 2)
  have frame := (s.advance 3).frame_pushWord h (s.pc + 2)
  -- From here the five facts stand for the push, which no comparison of states has to unfold.
  generalize (s.advance 3).pushWord (s.pc + 2) = pushed at *
  refine ⟨⟨_, completed, rfl, ?_, congrArg (· + 6) cycles, high, low, (frame.withPc w).spend 6⟩, rfl⟩
  exact sp.trans (sub_sub s.sp 1 1)

/-- Settles O39: the word pulled does not depend on PC. -/
theorem rtsAddsOne : Obligations.RtsAddsOne := by
  intro s
  refine ⟨⟨_, exec_rts s, ?pc, add_assoc s.sp 1 1, ?cycles, ?frame⟩, rfl⟩
  case pc => exact congrArg (· + 1) (s.advance 1).pullWord_fst
  case cycles => exact congrArg (· + 6) (s.advance 1).pullWord_cycles
  case frame => exact ((s.advance 1).frame_pullWord.withPc _).spend 6

/-- Settles O40: RTS pulls the two bytes where JSR stored them, and adds the one that JSR left out. -/
theorem rtsReturnsFromJsr : Obligations.RtsReturnsFromJsr := by
  intro s t u w h ht hu
  obtain ⟨⟨t', ht', -, tsp, -, high, low, frame⟩, -⟩ := jsrPushesItsLastByte s w h
  cases ht.symm.trans ht'
  obtain ⟨⟨u', hu', upc, usp, -⟩, -⟩ := rtsAddsOne t
  cases hu.symm.trans hu'
  have cfg := frame.cfg_eq
  have plain : t.StackPlain := by rwa [State.StackPlain, cfg]
  have above : t.sp + 2 = s.sp := by rw [tsp, sub_add_cancel]
  have between : t.sp + 1 = s.sp - 1 := by rw [tsp, sub_add]; rfl
  rw [t.read_stackAddr _ plain, t.read_stackAddr _ plain, above, between, State.stackAddr_congr cfg,
    State.stackAddr_congr cfg, high, low, join_hi_lo] at upc
  exact ⟨upc.trans (add_assoc s.pc 2 1), usp.trans above⟩

end Sys2Proof.Machine
end

section
/-! SUPPORT. Stack, flag and system instructions (44_stack_flags_system.md): what a push, a pulled status byte and a
trap entry leave, and the stack bytes by which RTI returns from a trap. -/

namespace Sys2Proof.Machine

/-! ## Completion -/

/-- An instruction has one outcome, so what it completes in is so of the state it answers. -/
theorem Completes.of_exec {i : Instr} {s t : State} {post : State → Prop} (h : Completes i s post)
    (ht : exec i s = .next t) : post t := by
  obtain ⟨t', ht', hpost⟩ := h
  cases ht.symm.trans ht'
  exact hpost

/-! ## Pushes and pulls -/

section Stack

variable (s : State)

/-- A push changes SP and at most the byte at the stack pointer (R24). -/
theorem State.frame_push (v : Byte) : Frame s (s.push v) [.sp] [] (fun a => a = s.stackAddr s.sp) :=
  (s.frame_write (s.stackAddr s.sp) v).withReg .sp (s.sp - 1)

/-- A pull changes SP alone (R24). -/
theorem State.frame_pull : Frame s s.pull.2 [.sp] [] noStore := s.frame_withReg .sp (s.sp + 1)

end Stack

section Completion

variable {i : Instr} {s : State} {v : Byte} {source : State → Byte}

/-- An instruction that pushes a byte, the same before and after PC passes the instruction. -/
theorem completes_push (plain : s.StackPlain) (h : exec i s = complete 1 3 (fun t => t.push (source t)) s)
    (hv : source (s.advance 1) = v) :
    Completes i s (fun t => t.ram (s.stackAddr s.sp) = v ∧ t.sp = s.sp - 1 ∧ PassedBy s t 1 3 ∧
      Frame s t [.sp] [] (fun a => a = s.stackAddr s.sp)) := by
  rw [complete_eq, hv] at h
  have pushed : ((s.advance 1).push v).ram (s.stackAddr s.sp) = v :=
    ((s.advance 1).ram_push v _ plain).trans (if_pos rfl)
  exact ⟨_, h, pushed, rfl, ⟨rfl, rfl⟩, ((s.advance 1).frame_push v).spend 3⟩

end Completion

/-! ## A pulled status byte -/

theorem Flag.mem_all (f : Flag) : f ∈ [Flag.n, .v, .u, .b, .d, .i, .z, .c] := by cases f <;> decide

section Status

variable {s t : State} {regs : List Reg} {flags : List Flag} {stored : Word → Prop}

/-- P loaded from a pulled byte (R31): six flags are the byte's, B is 0 and U is 1. -/
theorem State.flags_of_loadedStatus {v : Byte} (h : t.p = loadedStatus v) :
    (∀ f, f ≠ .b → f ≠ .u → t.flag f = flagOf v f) ∧ t.flag .b = false ∧ t.flag .u = true := by
  have flag : ∀ f, t.flag f = if f = .b then false else if f = .u then true else flagOf v f := fun f => by
    rw [← flagOf_loadedStatus, ← h, State.flag]
  refine ⟨fun f hb hu => ?_, flag .b, flag .u⟩
  rw [flag, if_neg hb, if_neg hu]

/-- Loading P may change every flag, and nothing else. -/
theorem Frame.withP (h : Frame s t regs flags stored) (v : Byte) :
    Frame s (t.withP v) regs [.n, .v, .u, .b, .d, .i, .z, .c] stored := by
  obtain ⟨hregs, -, others⟩ := h
  exact ⟨hregs, fun f hf => absurd f.mem_all hf, others⟩

end Status

/-! ## Trap entry and trap return -/

/-- What a trap entry from `s` leaves on the stack for the return: the return address and a status byte in the three
bytes that end at the stack pointer of `s` (R232, R263). -/
structure TrapFrame (s t : State) (ret : Word) (status : Byte) : Prop where
  cfg : t.cfg = s.cfg
  sp : t.sp = s.sp - 3
  high : t.ram (s.stackAddr s.sp) = hi ret
  low : t.ram (s.stackAddr (s.sp - 1)) = lo ret
  status : t.ram (s.stackAddr (s.sp - 2)) = status

section TrapEntry

variable (s : State) (ret : Word) (status : Byte) (vector : Word)

/-- A trap entry pushes its three bytes at different addresses (R24). -/
theorem trapFrame_trapEntry (plain : s.StackPlain) : TrapFrame s (s.trapEntry ret status vector) ret status := by
  have apart : ∀ {i j : Byte}, i ≠ j → s.stackAddr i ≠ s.stackAddr j := mt s.stackAddr_inj
  have h01 : s.sp ≠ s.sp - 1 := by bv_omega
  have h02 : s.sp ≠ s.sp - 2 := by bv_omega
  have h12 : s.sp - 1 ≠ s.sp - 2 := by bv_omega
  refine ⟨s.trapEntry_cfg .., ?sp, ?high, ?low, ?status⟩
  case sp => rw [State.trapEntry_sp, sub_sub, sub_sub]; rfl
  case high => rw [s.ram_trapEntry _ _ _ _ plain, if_neg (apart h02), if_neg (apart h01), if_pos rfl]
  case low => rw [s.ram_trapEntry _ _ _ _ plain, if_neg (apart h12), if_pos rfl]
  case status => rw [s.ram_trapEntry _ _ _ _ plain, if_pos rfl]

theorem State.flag_trapEntry (f : Flag) :
    (s.trapEntry ret status vector).flag f = if f = .i then true else s.flag f := by
  rw [State.flag, State.trapEntry_p, flagOf_putFlag, State.flag]

/-- A trap entry changes SP, I and the three bytes it pushes, besides PC. -/
theorem State.frame_trapEntry (plain : s.StackPlain) : Frame s (s.trapEntry ret status vector) [.sp] [.i]
    (fun a => a = s.stackAddr s.sp ∨ a = s.stackAddr (s.sp - 1) ∨ a = s.stackAddr (s.sp - 2)) := by
  refine .of_fields (.inr (s.trapEntry_a ..)) (.inr (s.trapEntry_x ..)) (.inr (s.trapEntry_y ..))
    (.inl (List.mem_singleton_self _)) (fun f hf => ?flag) (fun a ha => ?ram) (s.trapEntry_balance ..)
    (s.trapEntry_ticks ..) (s.trapEntry_roms ..) (s.trapEntry_cfg ..)
  case flag => rw [s.flag_trapEntry, if_neg (List.ne_of_not_mem_cons hf)]
  case ram =>
    obtain ⟨h0, h1, h2⟩ := not_or.mp ha |>.imp_right not_or.mp
    rw [s.ram_trapEntry _ _ _ _ plain, if_neg h2, if_neg h1, if_neg h0]

/-- BRK enters the trap with the address two past its opcode (R232). -/
theorem exec_brk_eq : exec .brk s =
    .next (((s.advance 1).trapEntry (s.pc + 2) (pushedBySoftware s.p) s.cfg.irqVector).spend 7) := by
  have ret : (s.advance 1).pc + 1 = s.pc + 2 := add_assoc s.pc 1 1
  rw [exec_brk, complete_eq, ret]
  rfl

end TrapEntry

section TrapReturn

variable {s t u : State} {ret : Word} {status : Byte}

/-- The frame does not speak of where the PC of the trapped state was. -/
theorem TrapFrame.of_advance {n : Nat} (h : TrapFrame (s.advance n) t ret status) : TrapFrame s t ret status :=
  ⟨h.cfg, h.sp, h.high, h.low, h.status⟩

theorem TrapFrame.spend (h : TrapFrame s t ret status) (cost : Nat) : TrapFrame s (t.spend cost) ret status :=
  ⟨h.cfg, h.sp, h.high, h.low, h.status⟩

theorem TrapFrame.withCycles (h : TrapFrame s t ret status) (n : Nat) : TrapFrame s (t.withCycles n) ret status :=
  ⟨h.cfg, h.sp, h.high, h.low, h.status⟩

theorem TrapFrame.withBalance (h : TrapFrame s t ret status) (n : Int) : TrapFrame s (t.withBalance n) ret status :=
  ⟨h.cfg, h.sp, h.high, h.low, h.status⟩

theorem trapFrame_intEntry (s : State) (vector : Word) (b : Bool) (plain : s.StackPlain) :
    TrapFrame s (s.intEntry vector b) s.pc (pushedByInterrupt s.p b) :=
  ((trapFrame_trapEntry s _ _ vector plain).withCycles _).withBalance _

theorem trapFrame_brk (plain : s.StackPlain) (h : exec .brk s = .next t) :
    TrapFrame s t (s.pc + 2) (pushedBySoftware s.p) := by
  cases (exec_brk_eq s).symm.trans h
  exact (trapFrame_trapEntry (s.advance 1) _ _ _ plain).of_advance.spend 7

theorem State.frame_trapReturn (s : State) : Frame s s.trapReturn [.sp] [.n, .v, .u, .b, .d, .i, .z, .c] noStore :=
  .of_fields (.inr s.trapReturn_a) (.inr s.trapReturn_x) (.inr s.trapReturn_y) (.inl (List.mem_singleton_self _))
    (fun f hf => absurd f.mem_all hf) (fun a _ => State.ram_congr s.trapReturn_mem a) s.trapReturn_balance
    s.trapReturn_ticks s.trapReturn_roms s.trapReturn_cfg

/-- What RTI leaves, with P whole (R233). -/
theorem completes_rti (s : State) :
    Completes .rti s (fun t =>
      t.p = loadedStatus (s.read (s.stackAddr (s.sp + 1))) ∧
      t.pc = join (s.read (s.stackAddr (s.sp + 3))) (s.read (s.stackAddr (s.sp + 2))) ∧
      t.sp = s.sp + 3 ∧ t.cycles = s.cycles + 6 ∧
      Frame s t [.sp] [.n, .v, .u, .b, .d, .i, .z, .c] noStore) :=
  ⟨_, exec_rti s, (s.advance 1).trapReturn_p, (s.advance 1).trapReturn_pc, (s.advance 1).trapReturn_sp,
    congrArg (· + 6) (s.advance 1).trapReturn_cycles, (s.advance 1).frame_trapReturn.spend 6⟩

/-- RTI pulls the three bytes where the trap entry pushed them, and goes to the return address itself. -/
theorem TrapFrame.rti (h : TrapFrame s t ret status) (plain : s.StackPlain) (hu : exec .rti t = .next u) :
    u.pc = ret ∧ u.p = loadedStatus status ∧ u.sp = s.sp := by
  obtain ⟨up, upc, usp, -⟩ := (completes_rti t).of_exec hu
  have above1 : t.sp + 1 = s.sp - 2 := by rw [h.sp]; bv_omega
  have above2 : t.sp + 2 = s.sp - 1 := by rw [h.sp]; bv_omega
  have above3 : t.sp + 3 = s.sp := by rw [h.sp, sub_add_cancel]
  have byte : ∀ offset, t.read (t.stackAddr offset) = t.ram (s.stackAddr offset) := fun offset => by
    rw [t.read_stackAddr offset (by rwa [h.cfg]), State.stackAddr_congr h.cfg]
  refine ⟨?_, ?_, usp.trans above3⟩
  · rw [upc, byte, byte, above2, above3, h.high, h.low, join_hi_lo]
  · rw [up, byte, above1, h.status]

/-- Under the invariant P is what a load of its own byte gives (R31). -/
theorem State.Inv.loadedStatus_p (h : s.Inv) : loadedStatus s.p = s.p := by
  obtain ⟨-, -, -, -, flagU, flagB⟩ := h
  exact loadedStatus_eq_self flagB flagU

end TrapReturn

/-! ## Interrupt requests -/

section Requests

variable {s : State}

/-- A request while I is set is lost (R262). -/
theorem State.irq_ignored (h : s.flag .i = true) : s.irq = s := if_pos h

/-- A request while I is clear is taken (R262). -/
theorem State.irq_taken (h : s.flag .i = false) : s.irq = s.intEntry s.cfg.irqVector false :=
  if_neg (by rw [h]; exact Bool.false_ne_true)

end Requests

/-! ## Writing one flag, and nothing -/

/-- An instruction that writes one flag; where it is CLI or SEI, that flag decides the interrupt request after it. -/
theorem completes_setFlag {i : Instr} {s : State} {f : Flag} {value : Bool}
    (h : exec i s = complete 1 2 (fun t => t.setFlag f value) s)
    (cli : i = .cli → f = .i ∧ value = false) (sei : i = .sei → f = .i ∧ value = true) :
    Completes i s (fun t => t.flag f = value ∧ PassedBy s t 1 2 ∧ Frame s t [] [f] noStore ∧
      (i = .cli → t.irq = t.intEntry t.cfg.irqVector false) ∧
      (i = .sei → t.irq = t ∧ t.forceBreak = t.intEntry t.cfg.forceBreakVector t.cfg.forceBreakB)) := by
  have written : ((s.advance 1).setFlag f value).flag f = value := by rw [State.flag_setFlag, if_pos rfl]
  refine ⟨_, h, written, ⟨rfl, rfl⟩, ((s.frame_advance 1).setFlag f value).spend 2, fun hi => ?cli, fun hi => ?sei⟩
  case cli =>
    obtain ⟨rfl, rfl⟩ := cli hi
    exact State.irq_taken written
  case sei =>
    obtain ⟨rfl, rfl⟩ := sei hi
    exact ⟨State.irq_ignored written, rfl⟩

/-- An instruction that does nothing but let PC pass it. -/
theorem completes_idle {i : Instr} {s : State} {cost : Nat} (h : exec i s = complete 1 cost (fun t => t) s) :
    Completes i s (fun t => PassedBy s t 1 cost ∧ Frame s t [] [] noStore) :=
  ⟨_, h, ⟨rfl, rfl⟩, (s.frame_advance 1).spend cost⟩

/-! ## The instructions -/

/-- Settles O41: each is one push, of A or of P with bits 4 and 5 set. -/
theorem pushesOntoTheStack : Obligations.PushesOntoTheStack := by
  intro s plain
  refine ⟨?_, ?_, rfl, rfl⟩
  · exact completes_push plain (exec_pha s) (s.advance_a 1)
  · exact completes_push plain (exec_php s) rfl

/-- Settles O42: both pull the byte above the stack pointer; PLA loads it, PLP loads its six flags. -/
theorem pullsFromTheStack : Obligations.PullsFromTheStack := by
  intro s
  have pulled := (s.advance 1).frame_pull
  refine ⟨?pla, ?plp, rfl, rfl⟩
  case pla =>
    have frame := (pulled.withReg .a (s.advance 1).pull.1).setNZ (s.advance 1).pull.1
    have shows := State.showsNZ_setNZ ((s.advance 1).pull.2.withA (s.advance 1).pull.1) (s.advance 1).pull.1
    exact ⟨_, exec_pla s, rfl, rfl, shows, ⟨rfl, rfl⟩, frame.spend 4⟩
  case plp =>
    have frame := pulled.withP (loadedStatus (s.advance 1).pull.1)
    have flags := State.flags_of_loadedStatus (State.withP_p (s.advance 1).pull.2 (loadedStatus (s.advance 1).pull.1))
    obtain ⟨six, brk, unused⟩ := flags
    exact ⟨_, exec_plp s, six, brk, unused, rfl, ⟨rfl, rfl⟩, frame.spend 4⟩

/-- Settles O45: the trap entry's stack bytes, frame and vector, the cycles added after the vector is read. -/
theorem brkTakesTheSoftwareTrap : Obligations.BrkTakesTheSoftwareTrap := by
  intro s plain
  have completed := exec_brk_eq s
  have stack := trapFrame_brk plain completed
  have frame := (s.advance 1).frame_trapEntry (s.pc + 2) (pushedBySoftware s.p) s.cfg.irqVector plain
  have masked := (s.advance 1).flag_trapEntry (s.pc + 2) (pushedBySoftware s.p) s.cfg.irqVector .i
  have cycles := (s.advance 1).trapEntry_cycles (s.pc + 2) (pushedBySoftware s.p) s.cfg.irqVector
  have pc := (s.advance 1).trapEntry_pc (s.pc + 2) (pushedBySoftware s.p) s.cfg.irqVector
  rw [s.advance_cycles] at cycles
  -- From here the facts stand for the trap entry, which no comparison of states has to unfold.
  generalize (s.advance 1).trapEntry (s.pc + 2) (pushedBySoftware s.p) s.cfg.irqVector = entered at *
  refine ⟨⟨_, completed, stack.high, stack.low, stack.status, stack.sp, masked, congrArg (· + 7) cycles, ?vector,
    frame.spend 7⟩, rfl⟩
  case vector => rwa [← cycles]

/-- Settles O46: P is the pulled byte as PLP loads it, and PC the pulled word. -/
theorem rtiReturnsFromTheTrap : Obligations.RtiReturnsFromTheTrap := by
  intro s
  obtain ⟨t, ht, p, others⟩ := completes_rti s
  obtain ⟨six, brk, unused⟩ := State.flags_of_loadedStatus p
  exact ⟨⟨t, ht, six, brk, unused, others⟩, rfl⟩

/-- Settles O47: RTI loads back the status either entry pushed, which the invariant makes P itself. -/
theorem rtiUndoesATrapEntry : Obligations.RtiUndoesATrapEntry := by
  intro s t u vector b plain inv
  constructor
  · intro ht hu
    have back := (trapFrame_brk plain ht).rti plain hu
    rwa [loadedStatus_pushedBySoftware, inv.loadedStatus_p] at back
  · intro hu
    have back := (trapFrame_intEntry s vector b plain).rti plain hu
    rwa [loadedStatus_pushedByInterrupt, inv.loadedStatus_p] at back

/-- Settles O43: each of the seven writes its flag; a request is lost while I is set. -/
theorem flagInstructions : Obligations.FlagInstructions := by
  intro s i op f value row
  simp only [List.mem_cons, Prod.mk.injEq, List.not_mem_nil, or_false] at row
  obtain ⟨rfl, rfl, rfl, rfl⟩ | ⟨rfl, rfl, rfl, rfl⟩ | ⟨rfl, rfl, rfl, rfl⟩ | ⟨rfl, rfl, rfl, rfl⟩ |
    ⟨rfl, rfl, rfl, rfl⟩ | ⟨rfl, rfl, rfl, rfl⟩ | ⟨rfl, rfl, rfl, rfl⟩ := row
  · exact ⟨completes_setFlag (exec_clc s) nofun nofun, rfl⟩
  · exact ⟨completes_setFlag (exec_sec s) nofun nofun, rfl⟩
  · exact ⟨completes_setFlag (exec_cli s) (fun _ => ⟨rfl, rfl⟩) nofun, rfl⟩
  · exact ⟨completes_setFlag (exec_sei s) nofun (fun _ => ⟨rfl, rfl⟩), rfl⟩
  · exact ⟨completes_setFlag (exec_cld s) nofun nofun, rfl⟩
  · exact ⟨completes_setFlag (exec_sed s) nofun nofun, rfl⟩
  · exact ⟨completes_setFlag (exec_clv s) nofun nofun, rfl⟩

/-- Settles O44: NOP and every undefined opcode do nothing but pass, at their own cost. -/
theorem noOperations : Obligations.NoOperations := by
  intro s op
  exact ⟨completes_idle (exec_nop s), completes_idle (exec_und s op), rfl, fun h => (encode_und op).trans (if_pos h)⟩

end Sys2Proof.Machine
end

section
/-! SUPPORT. Interrupt entry and the frame scheduler (60_exceptions.md R262–R276): what interrupt entry leaves, what
one round of the frame's loop takes from the balance, and what the whole loop leaves, by induction on the rounds. -/

namespace Sys2Proof.Machine

/-! ## Interrupt entry -/

section IntEntry

variable (s : State) (vector : Word) (b : Bool)

theorem State.intEntry_a : (s.intEntry vector b).a = s.a := by simp [State.intEntry]
theorem State.intEntry_x : (s.intEntry vector b).x = s.x := by simp [State.intEntry]
theorem State.intEntry_y : (s.intEntry vector b).y = s.y := by simp [State.intEntry]
theorem State.intEntry_ticks : (s.intEntry vector b).ticks = s.ticks := by simp [State.intEntry]

theorem State.intEntry_cycles : (s.intEntry vector b).cycles = s.cycles + s.cfg.intEntryCycles := by
  simp [State.intEntry]

theorem State.intEntry_balance : (s.intEntry vector b).balance = s.balance - s.cfg.intEntryCycles := by
  simp [State.intEntry]

theorem State.flag_intEntry (f : Flag) : (s.intEntry vector b).flag f = if f = .i then true else s.flag f := by
  rw [State.flag, State.intEntry_p, flagOf_putFlag, State.flag]

/-- Interrupt entry changes no RAM byte but the three it pushes to (R263). -/
theorem State.ram_intEntry_other (plain : s.StackPlain) {a : Word} (h0 : a ≠ s.stackAddr s.sp)
    (h1 : a ≠ s.stackAddr (s.sp - 1)) (h2 : a ≠ s.stackAddr (s.sp - 2)) : (s.intEntry vector b).ram a = s.ram a := by
  rw [State.ram_congr (s.intEntry_mem vector b), s.ram_trapEntry _ _ _ _ plain, if_neg h2, if_neg h1, if_neg h0]

end IntEntry

/-- Settles O48: the trap entry's stack bytes, and the cycles of the entry on both counters. -/
theorem interruptEntry : Obligations.InterruptEntry := by
  intro s vector b
  refine ⟨State.irq_ignored, State.irq_taken, rfl, fun plain => ?_⟩
  have stack := trapFrame_intEntry s vector b plain
  have flag := s.flag_intEntry vector b
  exact ⟨stack.high, stack.low, stack.status, stack.sp, flag .i, fun f hf => (flag f).trans (if_neg hf),
    s.intEntry_vector vector b, s.intEntry_a vector b, s.intEntry_x vector b, s.intEntry_y vector b,
    s.intEntry_ticks vector b, s.intEntry_cycles vector b, s.intEntry_balance vector b,
    fun _ => s.ram_intEntry_other vector b plain⟩

/-! ## What one instruction costs -/

theorem MemOperand.mode_ne_rel (m : MemOperand) : m.mode ≠ .rel := by cases m <;> nofun

theorem ReadOperand.mode_ne_rel (o : ReadOperand) : o.mode ≠ .rel := by
  cases o with
  | imm => nofun
  | mem m => exact MemOperand.mode_ne_rel m

theorem ShiftOperand.mode_ne_rel (o : ShiftOperand) : o.mode ≠ .rel := by
  cases o with
  | acc => nofun
  | mem m => exact MemOperand.mode_ne_rel m

theorem JumpOperand.mode_ne_rel (o : JumpOperand) : o.mode ≠ .rel := by cases o <;> nofun

/-- The base cost of a branch (R130, R200). -/
theorem baseCycles_of_rel (cfg : Config) {i : Instr} (h : i.mode = .rel) : baseCycles cfg i = 2 := by
  cases i with
  | bcc | bcs | beq | bmi | bne | bpl | bvc | bvs => rfl
  | lda o | ldx o | ldy o | adc o | sbc o | and o | ora o | eor o | cmp o | cpx o | cpy o =>
    exact absurd h (ReadOperand.mode_ne_rel o)
  | sta m | stx m | sty m | bit m | inc m | dec m => exact absurd h (MemOperand.mode_ne_rel m)
  | asl o | lsr o | rol o | ror o => exact absurd h (ShiftOperand.mode_ne_rel o)
  | jmp o => exact absurd h (JumpOperand.mode_ne_rel o)
  | _ => cases h

theorem opcodeCycleTable_le_seven : ∀ c ∈ opcodeCycleTable, ∀ n ∈ c, n ≤ 7 := by
  simp only [opcodeCycleTable, List.forall_mem_append]
  decide

/-- The instruction fetched is one the cycle table prints, and so costs at most seven base cycles (R130, R234). -/
theorem baseCycles_fetch_le (s : State) (h : s.cfg.undefCycles ≤ 7) : baseCycles s.cfg s.fetch ≤ 7 := by
  rw [State.fetch, opcodeCyclesAreTheTable.2]
  cases entry : opcodeCycleTable.getD (s.read s.pc).toNat none with
  | none => exact h
  | some n =>
    rw [List.getD_eq_getElem?_getD, Option.getD_eq_iff] at entry
    obtain listed | ⟨-, absent⟩ := entry
    · exact opcodeCycleTable_le_seven _ (List.mem_of_getElem? listed) n rfl
    · cases absent

/-- No step costs more than seven cycles, if an undefined opcode does not: branches, which alone have extra cycles,
cost at most four (R113, R200). -/
theorem step_cycles_le {s t : State} (h : s.cfg.undefCycles ≤ 7) (ht : step s = .next t) :
    t.cycles ≤ s.cycles + 7 := by
  obtain ⟨extra, cycles, le, extra_eq⟩ := instructionsCostTheirBaseCycles s.fetch s t ht
  by_cases branches : s.fetch.mode = .rel
  · have := baseCycles_of_rel s.cfg branches
    omega
  · have := baseCycles_fetch_le s h
    have := extra_eq branches
    omega

/-! ## The frame's loop -/

/-- `u` is `s` after an instruction whose cost in cycles was paid from the balance (R272). -/
structure Paid (s u : State) (cost : Nat) : Prop where
  cycles : u.cycles = s.cycles + cost
  balance : u.balance = s.balance - cost
  ticks : u.ticks = s.ticks
  cfg : u.cfg = s.cfg

/-- With a positive balance the loop goes on from a state that has paid for one instruction, the same for every
valve. -/
theorem runFrame_succ {s : State} (h : 0 < s.balance) :
    ∃ u cost, Paid s u cost ∧ (2 ≤ s.cfg.undefCycles → 2 ≤ cost) ∧ (s.cfg.undefCycles ≤ 7 → cost ≤ 7) ∧
      ∀ n, runFrame (n + 1) s = runFrame n u := by
  obtain ⟨extra, -, -, t, ht, cycles, balance, ticks⟩ := exec_counts s s.fetch
  have ht : step s = .next t := ht
  have spent : t.cycles = s.cycles + (baseCycles s.cfg s.fetch + extra) := by omega
  refine ⟨t.withBalance (t.balance - ((t.cycles : Int) - s.cycles)), baseCycles s.cfg s.fetch + extra,
    ⟨spent, ?balance, ticks, (step_keeps ht).cfg⟩, fun low => ?low, fun high => ?high, fun n => ?loop⟩
  case balance => rw [State.withBalance_balance]; omega
  case low => have := two_le_baseCycles low s.fetch; omega
  case high => have := step_cycles_le high ht; omega
  case loop => rw [runFrame, if_pos h, ht]

theorem runFrame_of_nonpos {s : State} (h : s.balance ≤ 0) (n : Nat) : runFrame n s = .next s := by
  cases n with
  | zero => rfl
  | succ n => rw [runFrame, if_neg (by omega)]

/-- The loop completes, counts no tick, and takes from the balance exactly the cycles it adds; where it starts no lower
than −6 it ends no lower, since it pays at most 7 from a positive balance. -/
theorem runFrame_accounts (n : Nat) (s : State) (h : s.cfg.undefCycles ≤ 7) :
    ∃ t, runFrame n s = .next t ∧ (t.cycles : Int) + t.balance = s.cycles + s.balance ∧ t.ticks = s.ticks ∧
      (-6 ≤ s.balance → -6 ≤ t.balance) := by
  induction n generalizing s with
  | zero => exact ⟨s, rfl, rfl, rfl, id⟩
  | succ n ih =>
    by_cases positive : 0 < s.balance
    · obtain ⟨u, cost, paid, -, high, loop⟩ := runFrame_succ positive
      obtain ⟨t, ht, total, ticks, least⟩ := ih u (by rwa [paid.cfg])
      have := high h
      have := paid.cycles
      have := paid.balance
      exact ⟨t, (loop n).trans ht, by omega, ticks.trans paid.ticks, fun _ => least (by omega)⟩
    · exact ⟨s, runFrame_of_nonpos (by omega) _, rfl, rfl, id⟩

/-- A balance of `2 * m` lasts for at most `m` instructions of two cycles or more, so that every valve from `m` on ends
the loop in the same state, its balance used up (R273). -/
theorem runFrame_exhausts (m : Nat) (s : State) (h : 2 ≤ s.cfg.undefCycles) (hb : s.balance ≤ 2 * m) :
    ∃ t, t.balance ≤ 0 ∧ ∀ n, m ≤ n → runFrame n s = .next t := by
  induction m generalizing s with
  | zero => exact ⟨s, by omega, fun n _ => runFrame_of_nonpos (by omega) n⟩
  | succ m ih =>
    by_cases positive : 0 < s.balance
    · obtain ⟨u, cost, paid, low, -, loop⟩ := runFrame_succ positive
      have := low h
      have := paid.balance
      obtain ⟨t, done, ht⟩ := ih u (by rwa [paid.cfg]) (by omega)
      refine ⟨t, done, fun n hn => ?_⟩
      obtain ⟨k, rfl⟩ := Nat.exists_eq_add_of_le' hn
      exact (loop (k + m)).trans (ht _ (by omega))
    · exact ⟨s, by omega, fun n _ => runFrame_of_nonpos (by omega) n⟩

/-! ## Execute -/

theorem State.dropRemainder_of_nonpos {s : State} (h : s.balance ≤ 0) : s.dropRemainder = s := if_neg (by omega)

theorem State.dropRemainder_balance (s : State) : s.dropRemainder.balance = min s.balance 0 := by
  unfold State.dropRemainder
  split
  next positive => exact (min_eq_right positive.le).symm
  next spent => exact (min_eq_left (not_lt.mp spent)).symm

/-- Execute is the loop with the budget added, a positive remainder dropped (R272). -/
theorem execute_of_runFrame {budget : Nat} {s t : State}
    (h : runFrame s.cfg.valve (s.withBalance (s.balance + budget)) = .next t) :
    execute budget s = .next t.dropRemainder := by
  rw [execute, h]

/-- Settles O49: the loop overruns by at most 6, a remainder is dropped, and with nothing to spend no instruction
runs. -/
theorem executeSpendsItsBudget : Obligations.ExecuteSpendsItsBudget := by
  intro budget s h
  obtain ⟨t, ht, -, -, least⟩ := runFrame_accounts s.cfg.valve (s.withBalance (s.balance + budget)) h
  rw [State.withBalance_balance] at least
  have balance := t.dropRemainder_balance
  refine ⟨t.dropRemainder, execute_of_runFrame ht, by omega, fun positive => ?_, fun spent => ?_⟩
  · have := least (by omega)
    omega
  · cases (runFrame_of_nonpos spent s.cfg.valve).symm.trans ht
    exact State.dropRemainder_of_nonpos spent

/-- Settles O50: 9828 instructions of two cycles use up the frame's 19656, and the valve of 10000 lies above. -/
theorem valveIsUnreachableByDefault : Obligations.ValveIsUnreachableByDefault := by
  intro s hcfg hb
  obtain ⟨t, done, ht⟩ := runFrame_exhausts 9828 (s.withBalance (s.balance + 19656))
    (by rw [State.withBalance_cfg, hcfg]; decide) (by rw [State.withBalance_balance]; omega)
  have valve : 9828 ≤ s.cfg.valve := by rw [hcfg]; decide
  have executed := execute_of_runFrame (budget := 19656) (ht _ valve)
  rw [State.dropRemainder_of_nonpos done] at executed
  exact ⟨t, done, ht, executed⟩

/-! ## Tick -/

/-- An interrupt request, taken or not, takes from the balance the cycles it adds, at most those of one entry (R262,
R263). -/
theorem State.irq_accounts (s : State) :
    (s.irq.cycles : Int) + s.irq.balance = s.cycles + s.balance ∧ s.irq.ticks = s.ticks ∧
      s.balance - s.cfg.intEntryCycles ≤ s.irq.balance ∧ s.irq.balance ≤ s.balance := by
  cases masked : s.flag .i with
  | true => rw [State.irq_ignored masked]; exact ⟨rfl, rfl, by omega, le_rfl⟩
  | false =>
    rw [State.irq_taken masked]
    have := s.intEntry_cycles s.cfg.irqVector false
    have := s.intEntry_balance s.cfg.irqVector false
    exact ⟨by omega, s.intEntry_ticks _ _, by omega, by omega⟩

theorem applyEvent_tick_of_execute {s t : State} (h : execute s.cfg.cyclesPerFrame s = .next t) :
    applyEvent .tick s =
      .next (t.irq.withTicks (t.irq.ticks + 1), tickOutput (t.irq.withTicks (t.irq.ticks + 1))) := by
  rw [applyEvent, tick, h]

/-- Settles O51: the frame spends its budget down to −6 at the lowest, no remainder being dropped because the valve is
out of reach, and the one interrupt request may take 7 more. -/
theorem tickAccounting : Obligations.TickAccounting := by
  intro s hcfg hb hlow
  obtain ⟨t, done, loop, executed⟩ := valveIsUnreachableByDefault s hcfg hb
  obtain ⟨t', ht', total, ticks, least⟩ := runFrame_accounts 9828 (s.withBalance (s.balance + 19656))
    (by rw [State.withBalance_cfg, hcfg]; decide)
  cases (loop 9828 le_rfl).symm.trans ht'
  rw [State.withBalance_balance] at total least
  rw [State.withBalance_cycles] at total
  have frame : execute s.cfg.cyclesPerFrame s = .next t := by rw [hcfg]; exact executed
  have entry : t.cfg.intEntryCycles = 7 := by rw [(execute_keeps executed).cfg, hcfg]; rfl
  obtain ⟨irqTotal, irqTicks, irqLeast, irqMost⟩ := t.irq_accounts
  have counted : t.irq.ticks + 1 = s.ticks + 1 := congrArg (· + 1) (irqTicks.trans ticks)
  have := least (by omega)
  refine ⟨_, _, applyEvent_tick_of_execute frame, counted, ?total, ?least, irqMost.trans done, ?output⟩
  case total => rw [State.withTicks_cycles, State.withTicks_balance]; omega
  case least => rw [State.withTicks_balance]; omega
  case output => rw [tickOutput, State.withTicks_ticks, counted]

end Sys2Proof.Machine
end

section
/-! SUPPORT. The keyboard FIFO (60_exceptions.md R284–R288): its content as a list of codes, to which a key is added
while the list is shorter than ten. -/

namespace Sys2Proof.Machine

/-! ## The host's key map -/

/-- Settles O58: the characters below 256 by their ranges, the other keys by the map's rows. -/
theorem keysInjectTheirCodes : Obligations.KeysInjectTheirCodes := by
  intro s c text n
  refine ⟨fun printable => ?_, fun control => pressKey_of_no_code s (charCode_control control), rfl, rfl, rfl, rfl, rfl,
    rfl, rfl, rfl, ?_⟩
  · have lower : isLower n ↔ (0x61 ≤ n ∧ n ≤ 0x7A) ∨ (0xE0 ≤ n ∧ n ≠ 0xF7) := by unfold isLower; omega
    have code : (Key.char c).code = some (BitVec.ofNat 8 (if isLower n then n - 0x20 else n)) :=
      charCode_byte (by unfold isControl; omega) (by unfold isOpen; omega) (by omega)
    rw [pressKey_of_code s code, if_congr lower rfl rfl]
  · have lineFeed : c = '\n' ↔ n = 10 := Char.toNat_inj.symm
    rw [typeText_cons, if_congr lineFeed rfl rfl]

/-! ## One key -/

section InjectKey

variable {s : State}

/-- A key injected at ten or more pending is dropped (R285). -/
theorem State.injectKey_full (code : Byte) (h : 10 ≤ (s.ram s.cfg.keyCountAddr).toNat) : s.injectKey code = s :=
  if_neg (Nat.not_lt.mpr h)

/-- A key injected at fewer than ten pending, with the default addresses: two RAM bytes are stored to (R285). -/
theorem State.injectKey_stores (code : Byte) (hcfg : s.cfg = Config.default) (h : (s.ram 0x00C6).toNat < 10) :
    s.injectKey code = (s.setRam (0x0277 + zext (s.ram 0x00C6)) code).setRam 0x00C6 (s.ram 0x00C6 + 1) := by
  have count : s.cfg.keyCountAddr = 0x00C6 := by rw [hcfg]; rfl
  have buffer : s.cfg.keyBufAddr = 0x0277 := by rw [hcfg]; rfl
  unfold State.injectKey
  rw [count, buffer]
  exact if_pos h

/-- The RAM bytes after a key that is stored, addresses as numbers. -/
theorem State.ram_injectKey (code : Byte) (hcfg : s.cfg = Config.default) (h : (s.ram 0x00C6).toNat < 10) (a : Word) :
    (s.injectKey code).ram a =
      if a.toNat = 0x00C6 then BitVec.ofNat 8 ((s.ram 0x00C6).toNat + 1)
      else if a.toNat = 0x0277 + (s.ram 0x00C6).toNat then code else s.ram a := by
  have count : a = 0x00C6 ↔ a.toNat = 0x00C6 := BitVec.toNat_inj.symm
  have slot : a = 0x0277 + zext (s.ram 0x00C6) ↔ a.toNat = 0x0277 + (s.ram 0x00C6).toNat := by
    have base : (0x0277 : Word).toNat = 0x0277 := rfl
    rw [← BitVec.toNat_inj, BitVec.toNat_add, zext_toNat, base]
    omega
  have oneMore : s.ram 0x00C6 + 1 = BitVec.ofNat 8 ((s.ram 0x00C6).toNat + 1) := by bv_omega
  rw [State.injectKey_stores code hcfg h, State.ram_setRam, State.ram_setRam, oneMore]
  exact if_congr count rfl (if_congr slot rfl rfl)

/-- Stored or dropped, a key changes RAM alone (R285). -/
theorem State.exists_injectKey_eq_withMem (s : State) (code : Byte) : ∃ m, s.injectKey code = s.withMem m := by
  unfold State.injectKey
  dsimp only
  split
  · exact ⟨_, rfl⟩
  · exact ⟨s.mem, rfl⟩

end InjectKey

theorem State.frame_withMem {s : State} {m : Memory} {stored : Word → Prop}
    (h : ∀ a, ¬ stored a → (s.withMem m).ram a = s.ram a) : Frame s (s.withMem m) [] [] stored :=
  .of_fields (.inr rfl) (.inr rfl) (.inr rfl) (.inr rfl) (fun _ _ => rfl) h rfl rfl rfl rfl

/-- Settles O52: with fewer than ten pending the two bytes stored to are the next slot and the count; with ten or more
nothing is stored. -/
theorem injectKeyStoresOrDrops : Obligations.InjectKeyStoresOrDrops := by
  intro s code hcfg n
  have stored := State.ram_injectKey code hcfg
  have dropped : 10 ≤ n → s.injectKey code = s := fun full => s.injectKey_full code (by rwa [hcfg])
  have kept : ∀ a : Word, ¬(a.toNat = 0x00C6 ∨ (0x0277 ≤ a.toNat ∧ a.toNat ≤ 0x0280)) →
      (s.injectKey code).ram a = s.ram a := fun a ha => by
    by_cases room : n < 10
    · rw [stored room, if_neg (by omega), if_neg (by omega)]
    · rw [dropped (by omega)]
  refine ⟨stored, dropped, ?_⟩
  obtain ⟨m, hm⟩ := s.exists_injectKey_eq_withMem code
  rw [hm] at kept ⊢
  exact ⟨rfl, rfl, State.frame_withMem kept⟩

/-! ## A sequence of keys -/

/-- The FIFO of `t` holds `keys`, the first injected first, and the byte after its last slot is `after` (R284). -/
structure FifoHolds (t : State) (keys : List Byte) (after : Byte) : Prop where
  cfg : t.cfg = Config.default
  capacity : keys.length ≤ 10
  count : t.ram 0x00C6 = BitVec.ofNat 8 keys.length
  slots : ∀ k (hk : k < keys.length), t.ram (BitVec.ofNat 16 (0x0277 + k)) = keys[k]
  after : t.ram 0x0281 = after

section Fifo

variable {t : State} {keys : List Byte} {after : Byte}

theorem FifoHolds.count_toNat (h : FifoHolds t keys after) : (t.ram 0x00C6).toNat = keys.length := by
  have := h.capacity
  rw [h.count, BitVec.toNat_ofNat]
  omega

/-- A key is appended to what the FIFO holds, cut to ten (R285). -/
theorem FifoHolds.injectKey (h : FifoHolds t keys after) (code : Byte) :
    FifoHolds (t.injectKey code) ((keys ++ [code]).take 10) after := by
  have pending := h.count_toNat
  by_cases room : keys.length < 10
  · rw [List.take_of_length_le (by simpa using room)]
    have ram := State.ram_injectKey code h.cfg (by omega)
    rw [pending] at ram
    refine ⟨(t.keeps_injectKey code).cfg.trans h.cfg, by simpa using room, ?count, fun k hk => ?slots, ?after⟩
    case count => exact (ram _).trans (by rw [List.length_append]; rfl)
    case slots =>
      rw [List.length_append, List.length_singleton] at hk
      have address : (BitVec.ofNat 16 (0x0277 + k)).toNat = 0x0277 + k := by
        rw [BitVec.toNat_ofNat]
        omega
      rw [ram, address, if_neg (by omega)]
      by_cases new : k = keys.length
      · rw [if_pos (by omega), List.getElem_append_right new.ge, List.getElem_singleton]
      · have old : k < keys.length := by omega
        rw [if_neg (by omega), h.slots k old, List.getElem_append_left old]
    case after =>
      have address : (0x0281 : Word).toNat = 0x0281 := rfl
      rw [ram, address, if_neg (by omega), if_neg (by omega), h.after]
  · have full : keys.length = 10 := by have := h.capacity; omega
    have dropped : t.injectKey code = t := State.injectKey_full code (by rw [h.cfg]; exact (pending.trans full).ge)
    rwa [dropped, List.take_append_of_le_length full.ge, List.take_of_length_le full.le]

theorem take_take_append (n : Nat) (front back : List Byte) :
    (front.take n ++ back).take n = (front ++ back).take n := by
  have left : n - min n front.length = n - front.length := by omega
  rw [List.take_append, List.take_append, List.take_take, min_self, List.length_take, left]

/-- Keys injected in turn with no drain: the first ten of all are held, in order (R288). -/
theorem FifoHolds.foldl_injectKey (h : FifoHolds t keys after) (codes : List Byte) :
    FifoHolds (codes.foldl State.injectKey t) ((keys ++ codes).take 10) after := by
  induction codes generalizing t keys with
  | nil => rwa [List.append_nil, List.take_of_length_le h.capacity]
  | cons code rest ih =>
    have step := ih (h.injectKey code)
    rwa [take_take_append, ← List.append_cons] at step

end Fifo

/-- Settles O53: from an empty FIFO the first ten of the twelve are held. -/
theorem twelveKeysLeaveTen : Obligations.TwelveKeysLeaveTen := by
  intro s codes hcfg empty length t
  have held : FifoHolds t (codes.take 10) (s.ram 0x0281) :=
    FifoHolds.foldl_injectKey (keys := []) ⟨hcfg, by decide, empty, nofun, rfl⟩ codes
  have ten : (codes.take 10).length = 10 := by rw [List.length_take, length]; rfl
  refine ⟨by rw [held.count, ten]; rfl, fun k hk => ?_, held.after⟩
  rw [held.slots k (by omega), List.getElem_take, List.getD_eq_getElem _ _ (by omega)]

end Sys2Proof.Machine
end

section
/-! SUPPORT. The compositor (60_exceptions.md R290–R299): of the four nested loops' rounds only that of a pixel's own
cell, row and column touches it, so that it keeps what that one round leaves, or what stood there before them. -/

namespace Sys2Proof.Machine

section Drawing

variable (s : State)

/-- What drawing pixel `c` of row `r` of the cell at `row`, `col` makes of the colour `old` there: the cell's colour
where the glyph's bit is 1 (R297). -/
def State.ink (row col r c : Nat) (old : Rgb) : Rgb :=
  if (s.glyphRow (s.cellCode (row * 40 + col)) r).getLsbD (7 - c) then s.cellColour (row * 40 + col) else old

/-! ## Rounds that touch a pixel, and rounds that do not -/

section Rounds

variable {row col r c y x : Nat}

theorem State.drawPixel_own (b : Canvas) :
    s.drawPixel row col r b c (s.cfg.innerY0 + row * 8 + r) (s.cfg.innerX0 + col * 8 + c) =
      s.ink row col r c (b (s.cfg.innerY0 + row * 8 + r) (s.cfg.innerX0 + col * 8 + c)) := by
  simp only [s.drawPixel_at, true_and, State.ink]

theorem State.drawPixel_other (b : Canvas)
    (h : ¬(y = s.cfg.innerY0 + row * 8 + r ∧ x = s.cfg.innerX0 + col * 8 + c)) :
    s.drawPixel row col r b c y x = b y x := by
  rw [s.drawPixel_at, if_neg fun ⟨hy, hx, _⟩ => h ⟨hy, hx⟩]

/-- A cell is drawn inside its 8×8 region (R295). -/
theorem State.drawCell_other (b : Canvas)
    (h : ∀ r < 8, ∀ c < 8, ¬(y = s.cfg.innerY0 + row * 8 + r ∧ x = s.cfg.innerX0 + col * 8 + c)) :
    s.drawCell row b col y x = b y x :=
  Canvas.fold_none _ y x 8 b fun r hr _ => Canvas.fold_none _ y x 8 _ fun c hc b => s.drawPixel_other b (h r hr c hc)

/-- A text row is drawn inside its 40 cells' regions (R295). -/
theorem State.drawRow_other (b : Canvas) (h : ∀ col < 40, ∀ r < 8, ∀ c < 8,
    ¬(y = s.cfg.innerY0 + row * 8 + r ∧ x = s.cfg.innerX0 + col * 8 + c)) : s.drawRow b row y x = b y x :=
  Canvas.fold_none _ y x 40 b fun col hcol b => s.drawCell_other b (h col hcol)

theorem State.drawCell_own (hr : r < 8) (hc : c < 8) (b : Canvas) :
    s.drawCell row b col (s.cfg.innerY0 + row * 8 + r) (s.cfg.innerX0 + col * 8 + c) =
      s.ink row col r c (b (s.cfg.innerY0 + row * 8 + r) (s.cfg.innerX0 + col * 8 + c)) :=
  Canvas.fold_at _ (s.ink row col r c) _ _ 8 r b hr
    (fun b => Canvas.fold_at _ _ _ _ 8 c b hc s.drawPixel_own fun _ _ _ b => s.drawPixel_other b (by omega))
    fun _ _ _ b => Canvas.fold_none _ _ _ 8 b fun _ _ b => s.drawPixel_other b (by omega)

theorem State.drawRow_own (hcol : col < 40) (hr : r < 8) (hc : c < 8) (b : Canvas) :
    s.drawRow b row (s.cfg.innerY0 + row * 8 + r) (s.cfg.innerX0 + col * 8 + c) =
      s.ink row col r c (b (s.cfg.innerY0 + row * 8 + r) (s.cfg.innerX0 + col * 8 + c)) :=
  Canvas.fold_at _ _ _ _ 40 col b hcol (s.drawCell_own hr hc) fun _ _ _ b => s.drawCell_other b (by omega)

/-! ## The whole drawing at a pixel -/

/-- At a pixel of a text cell the drawing has the background, inked by the cell's glyph (R295, R297). -/
theorem State.drawing_cell (hrow : row < 25) (hcol : col < 40) (hr : r < 8) (hc : c < 8) :
    s.drawing (s.cfg.innerY0 + row * 8 + r) (s.cfg.innerX0 + col * 8 + c) =
      s.ink row col r c s.backgroundColour := by
  rw [State.drawing, Canvas.fold_at s.drawRow (s.ink row col r c) _ _ 25 row _ hrow (s.drawRow_own hcol hr hc)
    fun _ _ _ b => s.drawRow_other b (by omega), fillRect, if_pos (by omega)]

/-- The closed form at a pixel of a text cell is the same. -/
theorem State.pixel_cell (hrow : row < 25) (hcol : col < 40) (hr : r < 8) (hc : c < 8) :
    s.pixel (s.cfg.innerY0 + row * 8 + r) (s.cfg.innerX0 + col * 8 + c) = s.ink row col r c s.backgroundColour := by
  have rowOf : (s.cfg.innerY0 + row * 8 + r - s.cfg.innerY0) / 8 = row := by omega
  have colOf : (s.cfg.innerX0 + col * 8 + c - s.cfg.innerX0) / 8 = col := by omega
  have glyphRowOf : (s.cfg.innerY0 + row * 8 + r - s.cfg.innerY0) % 8 = r := by omega
  have glyphColOf : (s.cfg.innerX0 + col * 8 + c - s.cfg.innerX0) % 8 = c := by omega
  rw [State.pixel, if_pos (by omega), rowOf, colOf, glyphRowOf, glyphColOf, State.ink]

/-- Outside the inner rectangle the drawing has the border (R295). -/
theorem State.drawing_border (h : ¬(s.cfg.innerY0 ≤ y ∧ y < s.cfg.innerY0 + 200 ∧ s.cfg.innerX0 ≤ x ∧
    x < s.cfg.innerX0 + 320)) : s.drawing y x = s.borderColour := by
  rw [State.drawing, Canvas.fold_none s.drawRow y x 25 _ fun _ _ b => s.drawRow_other b (by omega), fillRect, if_neg h]

end Rounds

/-- In a buffer that holds the pixel, the rendered colour is the drawing's (R290). -/
theorem State.render_getElem? {y x : Nat} (hy : y < s.cfg.displayH) (hx : x < s.cfg.displayW) :
    ∃ rowOut, s.render[y]? = some rowOut ∧ rowOut[x]? = some (s.drawing y x) :=
  ⟨(List.range s.cfg.displayW).map (s.drawing y), by simp [State.render, hy], by simp [hx]⟩

end Drawing

/-- Settles O56: a pixel of the inner rectangle is one of a text cell, and every other is of the border. -/
theorem drawingIsThePixelFunction : Obligations.DrawingIsThePixelFunction := by
  intro s y x
  by_cases inner : s.cfg.innerY0 ≤ y ∧ y < s.cfg.innerY0 + 200 ∧ s.cfg.innerX0 ≤ x ∧ x < s.cfg.innerX0 + 320
  · obtain ⟨row, r, hrow, hr, rfl⟩ : ∃ row r, row < 25 ∧ r < 8 ∧ y = s.cfg.innerY0 + row * 8 + r :=
      ⟨(y - s.cfg.innerY0) / 8, (y - s.cfg.innerY0) % 8, by omega⟩
    obtain ⟨col, c, hcol, hc, rfl⟩ : ∃ col c, col < 40 ∧ c < 8 ∧ x = s.cfg.innerX0 + col * 8 + c :=
      ⟨(x - s.cfg.innerX0) / 8, (x - s.cfg.innerX0) % 8, by omega⟩
    rw [s.drawing_cell hrow hcol hr hc, s.pixel_cell hrow hcol hr hc]
  · rw [s.drawing_border inner, State.pixel, if_neg inner]

/-- Settles O57: a zero glyph row has no bit to ink, so the background stays. -/
theorem blankGlyphShowsBackground : Obligations.BlankGlyphShowsBackground := by
  intro s row col y x hrow hcol hy hx width height blank
  have colour : s.drawing (s.cfg.innerY0 + row * 8 + y) (s.cfg.innerX0 + col * 8 + x) = s.backgroundColour := by
    rw [s.drawing_cell hrow hcol hy hx, State.ink, blank y hy]
    exact if_neg (by simp)
  rw [← colour]
  exact s.render_getElem? (by omega) (by omega)

end Sys2Proof.Machine
end

section
/-! SUPPORT. The host's reset and snapshot (70_reset_and_hazards.md R320–R332): what the RAM defaults make of RAM[0] and
RAM[1], the vector the machine reads through the banks they select, and that an array of the RAM's size is rebuilt
from its bytes. -/

namespace Sys2Proof.Machine

/-! ## Reset -/

/-- The default RAM defaults leave their two bytes whatever RAM held (R322). -/
theorem Memory.read_writeAll_ramDefaults (m : Memory) :
    Memory.read (Memory.writeAll m Config.default.ramDefaults) 0 = 0x2F ∧
      Memory.read (Memory.writeAll m Config.default.ramDefaults) 1 = 0x37 := by
  have stores : Memory.writeAll m Config.default.ramDefaults = Memory.write (Memory.write m 0 0x2F) 1 0x37 := rfl
  rw [stores, Memory.read_write_other _ _ (by decide), Memory.read_write_same, Memory.read_write_same]
  exact ⟨rfl, rfl⟩

section Reset

variable {s : State} (h : s.cfg = Config.default)
include h

theorem State.hostReset_ram_of_default (fresh : List (Word × Byte)) :
    (s.hostReset fresh).ram 0x0000 = 0x2F ∧ (s.hostReset fresh).ram 0x0001 = 0x37 := by
  obtain ⟨-, -, -, -, -, mem, -⟩ := s.hostReset_fields fresh
  rw [State.ram, State.ram, mem, h]
  exact Memory.read_writeAll_ramDefaults _

/-- With `HIRAM` set, addresses from 0xE000 on read the system ROM (R66, R67). -/
theorem State.read_romSys_of_default (hiram : (s.ram 0x0001).getLsbD 1 = true) {a : Word} (ha : 0xE000 ≤ a.toNat) :
    s.read a = Memory.read s.roms.sys (a.toNat - 0xE000) := by
  have store : s.store a = .romSys := by
    rw [s.store_of_default h, if_neg (by omega), if_pos ⟨ha, hiram⟩]
  rw [State.read, store]

/-- The vector is read after the RAM defaults have selected the system ROM (R322). -/
theorem State.hostReset_pc_of_default (fresh : List (Word × Byte)) :
    (s.hostReset fresh).pc = join (Memory.read s.roms.sys 0x1FFD) (Memory.read s.roms.sys 0x1FFC) := by
  obtain ⟨-, -, -, -, -, -, -, -, -, roms, cfg⟩ := s.hostReset_fields fresh
  have hiram : ((s.hostReset fresh).ram 0x0001).getLsbD 1 = true := by
    rw [(State.hostReset_ram_of_default h fresh).2]
    decide
  have vector : s.cfg.resetVector = 0xFFFC := by rw [h]; rfl
  rw [s.hostReset_pc, vector, State.read16, State.read_romSys_of_default (cfg.trans h) hiram (by decide),
    State.read_romSys_of_default (cfg.trans h) hiram (by decide), roms]
  rfl

end Reset

/-- Settles O11: the fields reset writes and keeps, and under the default configuration the two RAM defaults and the
vector they bank in. -/
theorem hostResetEffect : Obligations.HostResetEffect := by
  intro s fresh t
  obtain ⟨a, x, y, sp, p, -, cycles, balance, ticks, roms, cfg⟩ := s.hostReset_fields fresh
  refine ⟨a, x, y, sp, p, s.hostReset_pc fresh, cycles, balance, ticks, roms, cfg, fun h => ?_⟩
  obtain ⟨ram0, ram1⟩ := State.hostReset_ram_of_default h fresh
  exact ⟨ram0, ram1, State.hostReset_pc_of_default h fresh⟩

/-! ## Construct -/

/-- The machine as Construct has it before the reset sequence: the images loaded, everything else zero (R320). -/
def State.blank (cfg : Config) (images : RomImages) : State where
  a := 0
  x := 0
  y := 0
  sp := 0
  p := 0
  pc := 0
  mem := []
  cycles := 0
  balance := 0
  ticks := 0
  roms := ⟨Memory.ofBytes 0 images.ext, Memory.ofBytes 0 images.sys, Memory.ofBytes 0 images.glyph⟩
  cfg := cfg

theorem State.blank_roms (cfg : Config) (images : RomImages) :
    (State.blank cfg images).roms =
      ⟨Memory.ofBytes 0 images.ext, Memory.ofBytes 0 images.sys, Memory.ofBytes 0 images.glyph⟩ := rfl

theorem construct_eq (cfg : Config) (images : RomImages) (ram : List (Word × Byte)) :
    construct cfg images ram =
      if images.lengthsOk then .next ((State.blank cfg images).hostReset ram) else .refused .romImageLength := rfl

theorem RomImages.lengthsOk_iff (r : RomImages) :
    r.lengthsOk = true ↔ r.ext.length = 8192 ∧ r.sys.length = 8192 ∧ r.glyph.length = 4096 := by
  simp [RomImages.lengthsOk, and_assoc]

/-- An image loaded at 0 reads byte by byte as given. -/
theorem Memory.read_ofBytes_zero (bytes : List Byte) (k : Nat) :
    Memory.read (Memory.ofBytes 0 bytes) k = bytes.getD k 0 := by
  simpa [Memory.unlisted] using (Memory.read_ofBytes bytes 0 k).1

/-- Settles O9: images of the right lengths are loaded as they are, then the reset sequence runs on the blank
machine. -/
theorem constructLeavesTheResetState : Obligations.ConstructLeavesTheResetState := by
  intro images ram
  rw [construct_eq]
  refine ⟨fun lengths => ⟨_, if_pos (images.lengthsOk_iff.mpr lengths), ?_⟩, fun wrong => if_neg ?_⟩
  · obtain ⟨a, x, y, sp, p, -, cycles, balance, ticks, roms, cfg, defaults⟩ :=
      hostResetEffect (.blank .default images) ram
    obtain ⟨ram0, ram1, pc⟩ := defaults rfl
    refine ⟨a, x, y, sp, p, ?_, ram0, ram1, cycles, balance, ticks, cfg, fun k => ?_⟩
    · simpa only [State.blank_roms, Memory.read_ofBytes_zero] using pc
    · simp only [roms, State.blank_roms, Memory.read_ofBytes_zero, and_self]
  · rw [images.lengthsOk_iff]
    omega

/-- Settles O10: images of zeros list nothing, and the reset sequence on the blank machine is evaluated. -/
theorem modelResetIsConstructed : Obligations.ModelResetIsConstructed := by
  have lengths : RomImages.lengthsOk ⟨List.replicate 8192 0, List.replicate 8192 0, List.replicate 4096 0⟩ = true :=
    (RomImages.lengthsOk_iff _).mpr ⟨List.length_replicate, List.length_replicate, List.length_replicate⟩
  rw [Obligations.ModelResetIsConstructed, construct_eq, if_pos lengths]
  simp only [State.blank, Memory.ofBytes_zeros]
  exact congrArg Host.Outcome.next (by decide)

/-! ## Snapshot and restore -/

/-- A canonical array is what its bytes, listed from 0 to its size, make. -/
theorem Memory.ofBytes_read {size : Nat} {m : Memory} (hm : Memory.wf size m = true) :
    Memory.ofBytes 0 ((List.range size).map (Memory.read m)) = m := by
  refine Memory.ext_read (Memory.wf_ofBytes _ (by simp)) hm fun a => ?_
  rw [Memory.read_ofBytes_zero]
  by_cases ha : a < size
  · simp [List.getD_eq_getElem?_getD, ha]
  · rw [Memory.read_beyond hm (by omega), List.getD_eq_default _ _ (by simpa using ha)]
    rfl

/-- What a payload with a whole RAM overwrites: RAM, the registers and ticks, over the machine's counters, images and
configuration (R331). -/
def State.overwrittenBy (s : State) (k : Snapshot) : State :=
  { s with mem := Memory.ofBytes 0 k.ram, a := k.a, x := k.x, y := k.y, sp := k.sp, p := loadedStatus k.p, pc := k.pc,
           ticks := k.ticks }

theorem State.restore_some (s : State) (k : Snapshot) :
    s.restore (some k) = if k.ram.length = ramSize then (s.overwrittenBy k, true) else (s, false) := rfl

theorem State.snapshot_ram (s : State) : s.snapshot.ram = (List.range ramSize).map (Memory.read s.mem) := by
  rw [State.snapshot]

theorem State.snapshot_ram_length (s : State) : s.snapshot.ram.length = ramSize := by
  rw [s.snapshot_ram, List.length_map, List.length_range]

/-- RAM in canonical form is rebuilt from its bytes, and P has already the two bits a load gives it. -/
theorem State.Inv.overwrittenBy_snapshot {s : State} (inv : s.Inv) : s.overwrittenBy s.snapshot = s := by
  have wf : Memory.wf ramSize s.mem = true := inv.1
  have mem : Memory.ofBytes 0 s.snapshot.ram = s.mem := by rw [s.snapshot_ram, Memory.ofBytes_read wf]
  have p : loadedStatus s.snapshot.p = s.p := State.Inv.loadedStatus_p inv
  rw [State.overwrittenBy, mem, p]
  rfl

/-- Settles O54: the snapshot has a whole RAM, and overwrites every field by itself. -/
theorem snapshotRoundTrip : Obligations.SnapshotRoundTrip := by
  intro s inv
  rw [s.restore_some, if_pos s.snapshot_ram_length, State.Inv.overwrittenBy_snapshot inv]

/-- Settles O55: the three outcomes of a restore, by the payload's RAM. -/
theorem restoreIsAllOrNothing : Obligations.RestoreIsAllOrNothing := by
  intro s k
  rw [s.restore_some]
  exact ⟨rfl, fun wrong => if_neg wrong, fun whole => ⟨_, if_pos whole,
    fun a => Memory.read_ofBytes_zero k.ram a.toNat, rfl, rfl, rfl, rfl, rfl, rfl, rfl, rfl, rfl, rfl, rfl⟩⟩

end Sys2Proof.Machine
end
